-- ==== Sys2Proof/Word.lean ====
section
/-! DEFINITION. The interface unit of the core, a 32-bit word, and the shape of its three banks of sixteen. -/

namespace Sys2Proof

/-- A command word, operand word or response word: one whole 32-bit value, bit 0 least significant (R8, R52). -/
abbrev Word := BitVec 32

/-- Sixteen like elements of `w` bits: a history window in lookback order, index 0 the most recent (R11, R23, R24), or
the coefficient vector (R26). -/
abbrev Window (w : Nat) := Vector (BitVec w) 16

/-- The exact integer values of a history window in lookback order, which the filters compute over (R11, R131). -/
abbrev Lookback := Vector Int 16

end Sys2Proof
end

