-- ==== Sys2Proof/Syntax.lean ====
section
/-! DEFINITION. The commands of the core: one constructor for each row of the opcode table (R78). -/

namespace Sys2Proof

/-- A command with its operand words. The fields of the command word stand in the order of their bits, highest first, and
each constructor keeps its format's reserved bits as they were sent (R74): a command with a reserved bit set is a command,
which the core rejects when it executes it (R75, R224). -/
inductive Instr where
  /-- NOP, format Z (R190). -/
  | nop (rsv : BitVec 28)
  /-- INIT, format Z, with the seed word (R192). -/
  | init (rsv : BitVec 28) (seed : Word)
  /-- CFG, format C (R194): FAST 27, reserved 26:24, FIXM1 23:20, reserved 19:17, DECOR 16, DSEL 15:8, ESEL 7:0. -/
  | cfg (fast : BitVec 1) (rsvHi : BitVec 3) (fixm1 : BitVec 4) (rsvLo : BitVec 3) (decor : BitVec 1)
      (dsel : BitVec 8) (esel : BitVec 8)
  /-- WCOEF, format W, with the coefficient word (R196). -/
  | wcoef (rsv : BitVec 24) (idx : BitVec 4) (bits : Word)
  /-- QUANT, format Z, with the sample word (R168). -/
  | quant (rsv : BitVec 28) (b : Word)
  /-- QUANT4, format Z, with the sample words of lanes 0 to 3 (R171). -/
  | quant4 (rsv : BitVec 28) (b0 b1 b2 b3 : Word)
  /-- RDREG, format R (R200). -/
  | rdreg (rsv : BitVec 20) (ridx : BitVec 8)
  /-- CLRST, format Z (R202). -/
  | clrst (rsv : BitVec 28)
  deriving DecidableEq, Repr

end Sys2Proof
end

