-- ==== Sys2Proof/WellFormed.lean ====
section
/-! DEFINITION. When a command matches its row of the opcode map under the row's mask: its reserved bits are all 0 (R75, R78). -/

namespace Sys2Proof

/-- The command has legal reserved bits, so its first word matches its row of the opcode map (R75, R78). Every value of
every other field is admitted by the encoding. -/
def Instr.wellFormed : Instr → Bool
  | .nop rsv => rsv == 0
  | .init rsv _ => rsv == 0
  | .cfg _ rsvHi _ rsvLo _ _ _ => rsvHi == 0 && rsvLo == 0
  | .wcoef rsv _ _ => rsv == 0
  | .quant rsv _ => rsv == 0
  | .quant4 rsv _ _ _ _ => rsv == 0
  | .rdreg rsv _ => rsv == 0
  | .clrst rsv => rsv == 0

end Sys2Proof
end

