-- ==== Sys2Proof/Decode.lean ====
section
/-! DEFINITION. Framing and decoding of the word stream (R70, R71, R74 to R79), and the encoder written from the same
tables (R83). -/

namespace Sys2Proof

/-- `OPC = cw[31:28]` (R70). -/
def opcode (cw : Word) : BitVec 4 := cw.extractLsb' 28 4

/-- `cw[27:0]` (R70). -/
def body (cw : Word) : BitVec 28 := cw.extractLsb' 0 28

/-- How many operand words follow a command word: fixed by OPC alone (R71). -/
def operandCount (opc : BitVec 4) : Nat :=
  match opc.toNat with
  | 1 => 1
  | 3 => 1
  | 4 => 1
  | 5 => 4
  | _ => 0

/-- The total length in words of the command that a word begins (R71). -/
def commandLength (cw : Word) : Nat := 1 + operandCount (opcode cw)

/-- What stands at the head of a stream of delivered words. -/
inductive Decoded where
  /-- a whole command of a defined opcode, and the words after it -/
  | command (i : Instr) (rest : List Word)
  /-- a reserved opcode 0x8..0xF, which takes no operand words (R79), and the words after it -/
  | illegalOpcode (rest : List Word)
  /-- no command word, or fewer operand words than its opcode takes (R71) -/
  | incomplete
  deriving DecidableEq, Repr

/-- CFG's fields (R74 format C, R76). -/
def decodeCfg (cw : Word) : Instr :=
  .cfg (cw.extractLsb' 27 1) (cw.extractLsb' 24 3) (cw.extractLsb' 20 4) (cw.extractLsb' 17 3)
    (cw.extractLsb' 16 1) (cw.extractLsb' 8 8) (cw.extractLsb' 0 8)

/-- WCOEF's fields (R74 format W, R76). -/
def decodeWcoef (cw bits : Word) : Instr := .wcoef (cw.extractLsb' 4 24) (cw.extractLsb' 0 4) bits

/-- RDREG's fields (R74 format R, R76). -/
def decodeRdreg (cw : Word) : Instr := .rdreg (cw.extractLsb' 8 20) (cw.extractLsb' 0 8)

/-- Reads one command from the head of the stream: the command word chooses the row (R78), its opcode the number of
operand words (R71). A reserved opcode is rejected by name, whatever its body (R79). The state is not consulted (R82). -/
def decode : List Word → Decoded
  | [] => .incomplete
  | cw :: ws =>
    match (opcode cw).toNat, ws with
    | 0, ws => .command (.nop (body cw)) ws
    | 1, seed :: ws => .command (.init (body cw) seed) ws
    | 2, ws => .command (decodeCfg cw) ws
    | 3, bits :: ws => .command (decodeWcoef cw bits) ws
    | 4, b :: ws => .command (.quant (body cw) b) ws
    | 5, b0 :: b1 :: b2 :: b3 :: ws => .command (.quant4 (body cw) b0 b1 b2 b3) ws
    | 6, ws => .command (decodeRdreg cw) ws
    | 7, ws => .command (.clrst (body cw)) ws
    | 1, _ => .incomplete
    | 3, _ => .incomplete
    | 4, _ => .incomplete
    | 5, _ => .incomplete
    | _, ws => .illegalOpcode ws

/-- The 28 bits of a CFG command below the opcode, which are also the layout of the CFG register (R28, R74). -/
def cfgBody (fast : BitVec 1) (rsvHi : BitVec 3) (fixm1 : BitVec 4) (rsvLo : BitVec 3) (decor : BitVec 1)
    (dsel esel : BitVec 8) : BitVec 28 :=
  fast ++ rsvHi ++ fixm1 ++ rsvLo ++ decor ++ dsel ++ esel

/-- The words of a command, the command word first (R74, R83). -/
def encode : Instr → List Word
  | .nop rsv => [0x0#4 ++ rsv]
  | .init rsv seed => [0x1#4 ++ rsv, seed]
  | .cfg fast rsvHi fixm1 rsvLo decor dsel esel => [0x2#4 ++ cfgBody fast rsvHi fixm1 rsvLo decor dsel esel]
  | .wcoef rsv idx bits => [0x3#4 ++ rsv ++ idx, bits]
  | .quant rsv b => [0x4#4 ++ rsv, b]
  | .quant4 rsv b0 b1 b2 b3 => [0x5#4 ++ rsv, b0, b1, b2, b3]
  | .rdreg rsv ridx => [0x6#4 ++ rsv ++ ridx]
  | .clrst rsv => [0x7#4 ++ rsv]

/-- The words of an instruction given as one number whose bit 0 is the least significant bit of the first word and whose
bits above `nbits` are 0: as many words as its opcode takes, or as `nbits` covers, whichever is more. -/
def tableWords (nbits w : Nat) : List Word :=
  let v := w % 2 ^ nbits
  let count := max ((nbits + 31) / 32) (commandLength (BitVec.ofNat 32 v))
  (List.range count).map fun k => BitVec.ofNat 32 (v / 2 ^ (32 * k))

/-- The instruction the decoder reads from an instruction whose bits are `w`, as the opcode table numbers them. -/
def decodeTableWord (nbits w : Nat) : Option Instr :=
  match decode (tableWords nbits w) with
  | .command i _ => some i
  | .illegalOpcode _ => none
  | .incomplete => none

end Sys2Proof
end

