-- ==== Sys2Proof/Config.lean ====
section
/-! DEFINITION. What the spec fixes for the core once: the implementation parameters of R7, at the values R7 gives them. -/

namespace Sys2Proof.Config

/-- RESET_SEED, the LFSR's value at reset and in place of a seed of 0 (R7, R22, R192). The parameter's default; it must be
non-zero (`93_implementation_defined.md` P2). -/
def resetSeed : Word := 0x00000001#32

/-- CFG at reset: ESEL 0, DSEL 2, DECOR 0, FIXM1 15, FAST 0 (R28, R250). -/
def resetCfg : Word := 0x00F00200#32

/-- COEF at reset: 1.0, then fifteen times +0.0 (R26, R250). -/
def resetCoef : Window 32 :=
  #v[0x3F800000, 0, 0, 0, 0, 0, 0, 0, 0, 0, 0, 0, 0, 0, 0, 0]

/-- The least and greatest value of an accumulator of ACC_W = 64 bits (R7, R9). -/
def accMin : Int := -2 ^ 63

/-- See `accMin`. -/
def accMax : Int := 2 ^ 63 - 1

/-- The least and greatest value of an output sample of OUT_W = 16 bits (R7, R9). -/
def outMin : Int := -32768

/-- See `outMin`. -/
def outMax : Int := 32767

/-- How many LFSR steps make one raw draw (R102). -/
def stepsPerDraw : Nat := 16

end Sys2Proof.Config
end

