-- ==== Sys2Proof/Machine/State.lean ====
section
/-! DEFINITION. The state of the core (R39), the two ports as data, the reasons a step can stop, and the state after reset
(R250). -/

namespace Sys2Proof.Machine

/-- What the host can do to the core (R263): deliver one whole 32-bit word on the command port, or assert reset. A part of
a word is no input (`93_implementation_defined.md` X12). -/
inductive PortEvent where
  | word (w : Word)
  | reset
  deriving DecidableEq, Repr

/-- One response on the response port (R72): OK with its data words, or REJ with none. -/
inductive Response where
  | ok (data : List Word)
  | rej
  deriving DecidableEq, Repr

/-- The state of one core. The first six fields are all of its architected state (R38, R39). The last two are the
model's own: what the host has sent and the core has not yet taken, and what the core has answered (R263). -/
structure State where
  /-- LFSR, the generator's state (R22). -/
  lfsr : BitVec 32
  /-- RWIN, the randomization window: element 0 is the most recent fill (R23). -/
  rwin : Window 17
  /-- EWIN, the error window: element 0 is the residual of the previous sample (R24). -/
  ewin : Window 64
  /-- COEF, the user coefficients as binary32 patterns (R26). -/
  coef : Window 32
  /-- CFG (R28). -/
  cfg : BitVec 32
  /-- STATUS (R35). -/
  status : BitVec 32
  /-- The host's words and resets that the core has not yet taken, the next one first (the model's own, log entry 1). -/
  input : List PortEvent
  /-- The responses the core has returned, in command order (R57; the model's own, log entry 2). -/
  responses : List Response
  deriving DecidableEq, Repr

/-- Why the machine stops with a fault. Each is a state the hardware cannot hold, for which the spec asks a model to fault.
All are safe: the model stops where the hardware never is. -/
inductive Fault where
  /-- LFSR is 0 where a raw draw or RDREG reads it (`93_implementation_defined.md` X11). Raised by QUANT, QUANT4 and RDREG.
  Safe. -/
  | lfsrZero
  /-- An element of RWIN is -65536 where the dither filter or RDREG reads it (`93_implementation_defined.md` X10). Raised
  by QUANT, QUANT4 and RDREG. Safe. -/
  | rwinOutOfRange
  /-- CFG holds a code 9..254 where a filter is called with it (R134, `93_implementation_defined.md` X3). Raised by QUANT
  and QUANT4. Safe. -/
  | selectorUndefined
  /-- COEF holds a pattern that is not finite where selector 255 sums it, so that the sum has no value (R26, R147, log
  entry 8). Raised by QUANT and QUANT4. Safe. -/
  | coefNotFinite
  deriving DecidableEq, Repr

/-- Why the model refuses an instruction. -/
inductive Refusal where
  /-- The instruction of this mnemonic has no meaning in the model. Raised by no arm of `exec`. Safe. -/
  | notModelled (mnemonic : String)
  deriving DecidableEq, Repr

/-- The core right after reset (R250): every element has a value, no command is partly delivered, no response is
pending. -/
def State.reset : State where
  lfsr := Config.resetSeed
  rwin := Vector.replicate 16 0
  ewin := Vector.replicate 16 0
  coef := Config.resetCoef
  cfg := Config.resetCfg
  status := 0
  input := []
  responses := []

end Sys2Proof.Machine
end

