-- ==== Sys2Proof/Machine/Flags.lean ====
section
/-! DEFINITION. STATUS: its fields, its sticky bits, and the codes of rejection (R35, R222). -/

namespace Sys2Proof.Machine

/-- STATUS.ERR, bit 4 (R35). -/
def errBit : Word := 0x010#32

/-- STATUS.SAT_OUT, bit 5 (R35). -/
def satOutBit : Word := 0x020#32

/-- STATUS.SAT_ACC, bit 6 (R35). -/
def satAccBit : Word := 0x040#32

/-- STATUS.NAN_IN, bit 7 (R35). -/
def nanInBit : Word := 0x080#32

/-- STATUS.SAT_INT, bit 8 (R35). -/
def satIntBit : Word := 0x100#32

/-- The mask of STATUS.ERRCODE, bits 3:0 (R35). -/
def errCodeMask : Word := 0x00F#32

/-- The seven causes of rejection (R222). -/
inductive RejectCode where
  | illegalOpcode
  | reservedBits
  | badSelector
  | fastPrecond
  | badCoef
  | badIndex
  | notFast
  deriving DecidableEq, Repr

/-- The value that STATUS.ERRCODE records for a cause (R222). -/
def RejectCode.code : RejectCode → Word
  | .illegalOpcode => 1
  | .reservedBits => 2
  | .badSelector => 3
  | .fastPrecond => 4
  | .badCoef => 5
  | .badIndex => 6
  | .notFast => 7

/-- STATUS after a rejection: ERR set, ERRCODE the newer code, the other bits kept (R221, R233). -/
def rejectedStatus (code : RejectCode) (status : Word) : Word :=
  (status &&& ~~~errCodeMask) ||| errBit ||| code.code

/-- Sets the sticky bits `bits` of STATUS if the event happened; they are never cleared here (R37, R231). -/
def State.raise (bits : Word) (happened : Bool) (s : State) : State :=
  { s with status := if happened then s.status ||| bits else s.status }

/-- CLRST's effect: STATUS is 0 in every field (R202). -/
def State.clearStatus (s : State) : State := { s with status := 0 }

/-- STATUS.ERRCODE (R36). -/
def State.errCode (s : State) : BitVec 4 := s.status.extractLsb' 0 4

/-- STATUS.ERR (R35). -/
def State.err (s : State) : Bool := s.status.getLsbD 4

end Sys2Proof.Machine
end

