-- ==== Sys2Proof/Machine/Ops.lean ====
section
/-! DEFINITION. The operations every command is made of: pushing a history window, answering, rejecting, and the reset that
the host asserts. -/

namespace Sys2Proof.Machine

/-- `Push(W, v)`: the elements move one place older, the oldest is dropped, `v` becomes the most recent (R11). -/
def push {w : Nat} (W : Window w) (v : BitVec w) : Window w :=
  Vector.ofFn fun k => if k.val = 0 then v else W[k.val - 1]

/-- The exact integer values of a window (R131). -/
def signedView {w : Nat} (W : Window w) : Lookback := Vector.ofFn fun k => W[k].toInt

/-- `respond(w0, w1, ...)`: the command's OK response, with its data words (R10, R72). -/
def State.respond (data : List Word) (s : State) : State :=
  { s with responses := s.responses ++ [.ok data] }

/-- `raise Reject(code)`, the core's only exception (R220, R221): STATUS records the code, the response is REJ, and
nothing else changes. It saves nothing, switches nothing and transfers nothing (R232), and nothing returns from it: the
host reads STATUS, clears it with CLRST and goes on (R233). -/
def State.reject (code : RejectCode) (s : State) : State :=
  { s with status := rejectedStatus code s.status, responses := s.responses ++ [.rej] }

/-- INIT's and the reset's zero-fill of a window (R192, R250). -/
def zeroWindow (w : Nat) : Window w := Vector.replicate 16 0

/-- The state after the host's reset took effect (R250, R251). Every element is at its reset value; a command that was
partly delivered went with the input before the reset; the responses already returned stay returned. -/
def State.hostReset (rest : List PortEvent) (s : State) : State :=
  { State.reset with input := rest, responses := s.responses }

/-- The state once the words of a command are taken from the port (R57, R70). -/
def State.withInput (rest : List PortEvent) (s : State) : State := { s with input := rest }

end Sys2Proof.Machine
end

