-- ==== Sys2Proof/Machine/Operands.lean ====
section
/-! DEFINITION. How operands and results are read and formed: the conversions of R9, binary32 patterns, the fields of CFG,
the selector codes, the RDREG index map, and the layout of response words. -/

namespace Sys2Proof.Machine

/-- `sat(v, lo, hi)` (R9). -/
def sat (v lo hi : Int) : Int := if v < lo then lo else if hi < v then hi else v

/-- `sat64(v)` (R9). -/
def sat64 (v : Int) : Int := sat v Config.accMin Config.accMax

/-- `sat16(v)` (R9). -/
def sat16 (v : Int) : Int := sat v Config.outMin Config.outMax

/-- `v >> n`, the arithmetic shift floor(v / 2^n) (R9): integer division by a positive number rounds down. -/
def asr (v : Int) (n : Nat) : Int := v / 2 ^ n

/-- The value of a binary32 pattern (R160). A finite value is a whole multiple of 2^(-149), and `finite n` is n · 2^(-149). -/
inductive F32 where
  | nan
  | inf (negative : Bool)
  | finite (n : Int)
  deriving DecidableEq, Repr

/-- Bit 31, the sign (R53). -/
def f32Sign (b : Word) : Bool := b.getLsbD 31

/-- Bits 30:23, the biased exponent (R53). -/
def f32Exponent (b : Word) : Nat := (b.extractLsb' 23 8).toNat

/-- Bits 22:0, the fraction (R53). -/
def f32Fraction (b : Word) : Nat := (b.extractLsb' 0 23).toNat

/-- The magnitude of a finite pattern in units of 2^(-149): F for a zero or subnormal, and (2^23 + F) · 2^(E - 1) for a
normal, whose value is (2^23 + F) · 2^(E - 150) (R160). -/
def f32Magnitude (b : Word) : Nat :=
  if f32Exponent b = 0 then f32Fraction b else (2 ^ 23 + f32Fraction b) * 2 ^ (f32Exponent b - 1)

/-- A finite pattern's value in units of 2^(-149) (R160). -/
def f32Units (b : Word) : Int := if f32Sign b then -(f32Magnitude b : Int) else f32Magnitude b

/-- `f32(b)` (R160). -/
def f32 (b : Word) : F32 :=
  if f32Exponent b = 0xFF then
    if f32Fraction b = 0 then .inf (f32Sign b) else .nan
  else .finite (f32Units b)

/-- The exponent field is not 0xFF: the pattern is a zero, a subnormal or a normal (R26, R227). -/
def f32IsFinite (b : Word) : Bool := f32Exponent b != 0xFF

/-- The pattern is a NaN (R160). -/
def f32IsNan (b : Word) : Bool := f32 b == .nan

/-- A sample once it is scaled and floored to an integer, or an infinity (R162, R164). -/
inductive Scaled where
  | finite (n : Int)
  | posInf
  | negInf
  deriving DecidableEq, Repr

/-- Steps 1 and 3: floor(s · 2^(15 + f)) for a finite sample, an infinity for an infinite one, and 0 for a NaN (R161, R162,
R164). -/
def scaleSample (f : Nat) (b : Word) : Scaled :=
  match f32 b with
  | .nan => .finite 0
  | .inf true => .negInf
  | .inf false => .posInf
  | .finite n => .finite (asr (n * 2 ^ (15 + f)) 149)

/-- CFG.ESEL, bits 7:0 (R29). -/
def State.esel (s : State) : BitVec 8 := s.cfg.extractLsb' 0 8

/-- CFG.DSEL, bits 15:8 (R30). -/
def State.dsel (s : State) : BitVec 8 := s.cfg.extractLsb' 8 8

/-- CFG.DECOR, bit 16 (R31). -/
def State.decor (s : State) : Bool := s.cfg.getLsbD 16

/-- fixbits = CFG.FIXM1 + 1, 1 to 16 (R32). -/
def State.fixbits (s : State) : Nat := (s.cfg.extractLsb' 20 4).toNat + 1

/-- CFG.FAST, bit 27 (R33). -/
def State.fast (s : State) : Bool := s.cfg.getLsbD 27

/-- The ten filters (R80). -/
inductive Selector where
  /-- 0, NONE -/
  | off
  /-- 1, RECTANGULAR -/
  | recent
  /-- 2, TRIANGULAR -/
  | difference
  /-- 3 -/
  | halfSecondDifference
  /-- 4 -/
  | fir5
  /-- 5 -/
  | reversedDifference
  /-- 6 -/
  | reversedHalfSecondDifference
  /-- 7 -/
  | shiftedReversedDifference
  /-- 8 -/
  | fir6
  /-- 255, USER -/
  | user
  deriving DecidableEq, Repr

/-- The selector codes; 9 to 254 are none (R80). -/
def Selector.ofCode (code : BitVec 8) : Option Selector :=
  match code.toNat with
  | 0 => some .off
  | 1 => some .recent
  | 2 => some .difference
  | 3 => some .halfSecondDifference
  | 4 => some .fir5
  | 5 => some .reversedDifference
  | 6 => some .reversedHalfSecondDifference
  | 7 => some .shiftedReversedDifference
  | 8 => some .fir6
  | 255 => some .user
  | _ => none

/-- The code is one of 0..8 and 255 (R80, R194). -/
def selectorLegal (code : BitVec 8) : Bool := (Selector.ofCode code).isSome

/-- FAST's precondition: triangular dither, one-draw fill, no error feedback, fixbits 16 (R33). -/
def fastAllowed (fixm1 : BitVec 4) (decor : BitVec 1) (dsel esel : BitVec 8) : Bool :=
  dsel == 2 && decor == 0 && esel == 0 && fixm1 == 15

/-- What an RDREG index reaches (R51, R200). -/
inductive RegName where
  | cfg
  | status
  | lfsr
  | coef (k : Fin 16)
  | rwin (k : Fin 16)
  | ewinLow (k : Fin 16)
  | ewinHigh (k : Fin 16)
  deriving DecidableEq, Repr

/-- The RDREG index map; `none` for the unmapped indices 0x03..0x0F, 0x30..0x3F and 0x60..0xFF (R200, R229). -/
def RegName.ofIndex (ridx : BitVec 8) : Option RegName :=
  let i := ridx.toNat
  if i = 0x00 then some .cfg
  else if i = 0x01 then some .status
  else if i = 0x02 then some .lfsr
  else if 0x10 ≤ i ∧ i ≤ 0x1F then some (.coef (Fin.ofNat 16 (i - 0x10)))
  else if 0x20 ≤ i ∧ i ≤ 0x2F then some (.rwin (Fin.ofNat 16 (i - 0x20)))
  else if 0x40 ≤ i ∧ i ≤ 0x5F then
    let k := Fin.ofNat 16 ((i - 0x40) / 2)
    if i % 2 = 0 then some (.ewinLow k) else some (.ewinHigh k)
  else none

/-- LFSR as a raw draw and RDREG read it: never 0 in the hardware, and a fault if it is
(`93_implementation_defined.md` X11). -/
def State.readLfsr (s : State) : Except Fault Word :=
  if s.lfsr = 0 then .error .lfsrZero else .ok s.lfsr

/-- The least pattern of a 17-bit element, which `Fill` never writes (R23). -/
def rwinNever : BitVec 17 := 0x10000#17

/-- No element of RWIN holds the pattern that `Fill` never writes (R23). -/
abbrev State.RwinInRange (s : State) : Prop := ∀ k : Fin 16, s.rwin[k] ≠ rwinNever

/-- RWIN as the dither filter reads it: no element is -65536 in the hardware, and a fault if one is
(`93_implementation_defined.md` X10). -/
def State.readRwin (s : State) : Except Fault Lookback :=
  if s.RwinInRange then .ok (signedView s.rwin) else .error .rwinOutOfRange

/-- One element of RWIN as RDREG reads it (X10, as for `State.readRwin`). -/
def State.readRwinElement (k : Fin 16) (s : State) : Except Fault (BitVec 17) :=
  if s.rwin[k] = rwinNever then .error .rwinOutOfRange else .ok s.rwin[k]

/-- The word that RDREG answers for a mapped index (R54, R200): a 17-bit element sign-extended, a 64-bit element in two
halves. -/
def State.readReg (s : State) : RegName → Except Fault Word
  | .cfg => .ok s.cfg
  | .status => .ok s.status
  | .lfsr => s.readLfsr
  | .coef k => .ok s.coef[k]
  | .rwin k => (s.readRwinElement k).map fun v => v.signExtend 32
  | .ewinLow k => .ok (s.ewin[k].extractLsb' 0 32)
  | .ewinHigh k => .ok (s.ewin[k].extractLsb' 32 32)

/-- QUANT's response word: the 16-bit output sign-extended (R54 a). -/
def sampleWord (out : BitVec 16) : Word := out.signExtend 32

/-- One QUANT4 response word: the earlier lane in bits 15:0, the later in bits 31:16 (R54 b, R171). -/
def laneWord (earlier later : BitVec 16) : Word := later ++ earlier

end Sys2Proof.Machine
end

