-- ==== Sys2Proof/Machine/Control.lean ====
section
/-! DEFINITION. The control commands: NOP, INIT, CFG, WCOEF, RDREG and CLRST (R190 to R202). -/

namespace Sys2Proof.Machine

/-- NOP (R190). -/
def execNop (rsv : BitVec 28) (s : State) : Host.Outcome State Fault Refusal :=
  if rsv ≠ 0 then .next (s.reject .reservedBits) else .next (s.respond [])

/-- The start of a session: the LFSR seeded, a seed of 0 replaced by RESET_SEED, and both windows zero (R192). -/
def State.startSession (seed : Word) (s : State) : State :=
  { s with
    lfsr := if seed = 0 then Config.resetSeed else seed
    rwin := zeroWindow 17
    ewin := zeroWindow 64 }

/-- INIT (R192). -/
def execInit (rsv : BitVec 28) (seed : Word) (s : State) : Host.Outcome State Fault Refusal :=
  if rsv ≠ 0 then .next (s.reject .reservedBits) else .next ((s.startSession seed).respond [])

/-- `CFG <- zext_32(cw[27:0])` (R194). -/
def State.writeCfg (low : BitVec 28) (s : State) : State := { s with cfg := low.setWidth 32 }

/-- CFG: the register is written whole, or, if a reserved bit is set, a selector is not one, or FAST is asked for
outside its one configuration, not at all (R194). -/
def execCfg (fast : BitVec 1) (rsvHi : BitVec 3) (fixm1 : BitVec 4) (rsvLo : BitVec 3) (decor : BitVec 1)
    (dsel esel : BitVec 8) (s : State) : Host.Outcome State Fault Refusal :=
  if rsvHi ≠ 0 ∨ rsvLo ≠ 0 then .next (s.reject .reservedBits)
  else if !selectorLegal esel || !selectorLegal dsel then .next (s.reject .badSelector)
  else if fast = 1 ∧ !fastAllowed fixm1 decor dsel esel then .next (s.reject .fastPrecond)
  else .next ((s.writeCfg (cfgBody fast rsvHi fixm1 rsvLo decor dsel esel)).respond [])

/-- `COEF[idx] <- bits`, the pattern unchanged (R196). -/
def State.writeCoef (idx : BitVec 4) (bits : Word) (s : State) : State :=
  { s with coef := s.coef.set idx.toNat bits idx.isLt }

/-- WCOEF (R196). -/
def execWcoef (rsv : BitVec 24) (idx : BitVec 4) (bits : Word) (s : State) : Host.Outcome State Fault Refusal :=
  if rsv ≠ 0 then .next (s.reject .reservedBits)
  else if !f32IsFinite bits then .next (s.reject .badCoef)
  else .next ((s.writeCoef idx bits).respond [])

/-- RDREG (R200). -/
def execRdreg (rsv : BitVec 20) (ridx : BitVec 8) (s : State) : Host.Outcome State Fault Refusal :=
  if rsv ≠ 0 then .next (s.reject .reservedBits)
  else
    match RegName.ofIndex ridx with
    | none => .next (s.reject .badIndex)
    | some r =>
      match s.readReg r with
      | .ok v => .next (s.respond [v])
      | .error f => .fault f

/-- CLRST (R202). -/
def execClrst (rsv : BitVec 28) (s : State) : Host.Outcome State Fault Refusal :=
  if rsv ≠ 0 then .next (s.reject .reservedBits) else .next (s.clearStatus.respond [])

end Sys2Proof.Machine
end

