-- ==== Sys2Proof/Machine/Filters.lean ====
section
/-! DEFINITION. The shaping filter bank (R130 to R152). -/

namespace Sys2Proof.Machine

/-- `RHA(n/d)`: the nearest integer, halves away from zero (R136). -/
def rha (n : Int) (d : Nat) : Int := n.sign * ((2 * n.natAbs + d) / (2 * d) : Nat)

/-- Selector 3 in the spec's reading (R141), a parameter at its default (R151, `93_implementation_defined.md` P3; log
entry 5). -/
def halfSecondDifference (W : Lookback) : Int := W[0] + asr (W[0] - 2 * W[1] + W[2]) 1

/-- Selector 5 in the spec's reading (R143), a parameter at its default (R151; log entry 5). -/
def reversedDifference (W : Lookback) : Int := W[1] - W[0]

/-- Selector 6 in the spec's reading (R144), a parameter at its default (R151; log entry 5). -/
def reversedHalfSecondDifference (W : Lookback) : Int := W[0] + asr (2 * W[1] - W[0] - W[2]) 1

/-- Selector 7 in the spec's reading (R145), a parameter at its default (R151; log entry 5). -/
def shiftedReversedDifference (W : Lookback) : Int := W[2] - W[1]

/-- Selector 4, the five decimal taps taken exactly and rounded once (R142). -/
def fir5 (W : Lookback) : Int :=
  rha (20330 * W[0] - 21650 * W[1] + 19590 * W[2] - 15900 * W[3] + 6149 * W[4]) 10000

/-- Selector 8, the six decimal taps taken exactly and rounded once (R146). -/
def fir6 (W : Lookback) : Int :=
  rha (-10000 * W[0] + 20330 * W[1] - 21650 * W[2] + 19590 * W[3] - 15900 * W[4] + 6149 * W[5]) 10000

/-- The sum of f32(COEF[i]) · W[i] over all sixteen taps, in units of 2^(-149) (R147). -/
def userSum (coef : Window 32) (W : Lookback) : Int :=
  ((List.finRange 16).map fun i => f32Units coef[i] * W[i]).sum

/-- Every coefficient is finite (R26). -/
abbrev CoefFinite (coef : Window 32) : Prop := ∀ i : Fin 16, f32IsFinite coef[i] = true

/-- Selector 255: the exact sum, rounded once (R147). The sum has no value if a coefficient is not finite. -/
def userFir (coef : Window 32) (W : Lookback) : Except Fault Int :=
  if CoefFinite coef then .ok (rha (userSum coef W) (2 ^ 149)) else .error .coefNotFinite

/-- The exact result of a selector, before it is clamped (R135, R138 to R147). -/
def Selector.eval (coef : Window 32) (W : Lookback) : Selector → Except Fault Int
  | .off => .ok 0
  | .recent => .ok W[0]
  | .difference => .ok (W[0] - W[1])
  | .halfSecondDifference => .ok (Sys2Proof.Machine.halfSecondDifference W)
  | .fir5 => .ok (Sys2Proof.Machine.fir5 W)
  | .reversedDifference => .ok (Sys2Proof.Machine.reversedDifference W)
  | .reversedHalfSecondDifference => .ok (Sys2Proof.Machine.reversedHalfSecondDifference W)
  | .shiftedReversedDifference => .ok (Sys2Proof.Machine.shiftedReversedDifference W)
  | .fir6 => .ok (Sys2Proof.Machine.fir6 W)
  | .user => userFir coef W

/-- `Filter` before the clamp, over all 256 codes: a code 9..254 is never given a value (R134, R135). -/
def filterExact (coef : Window 32) (code : BitVec 8) (W : Lookback) : Except Fault Int :=
  match Selector.ofCode code with
  | some sel => sel.eval coef W
  | none => .error .selectorUndefined

/-- `Filter(W, sel)`: the result saturated to 64 bits, and SAT_INT set if the clamp changed it (R135, R137). It writes
nothing else (R130). -/
def State.filter (code : BitVec 8) (W : Lookback) (s : State) : Except Fault (Int × State) := do
  let y ← filterExact s.coef code W
  pure (sat64 y, s.raise satIntBit (y != sat64 y))

end Sys2Proof.Machine
end

