-- ==== Sys2Proof/Machine/Rng.lean ====
section
/-! DEFINITION. The random-number source and the fill of the randomization window (R100 to R106). -/

namespace Sys2Proof.Machine

/-- `LfsrStep`, one step of the underlying generator (R101). With `rawDraw` it is the parameter RAWGEN at its default
(R7, `93_implementation_defined.md` P1; log entry 4). -/
def lfsrStep (L : Word) : Word :=
  let fb := L.getLsbD 31 ^^ L.getLsbD 21 ^^ L.getLsbD 1 ^^ L.getLsbD 0
  (L <<< 1) ||| (BitVec.ofBool fb).setWidth 32

/-- `n` steps of the generator. -/
def lfsrSteps : Nat → Word → Word
  | 0, L => L
  | n + 1, L => lfsrSteps n (lfsrStep L)

/-- `RawDraw`: the draw and the generator's new state (R102). Every other rule reaches the generator through it. -/
def rawDraw (L : Word) : BitVec 16 × Word :=
  let L' := lfsrSteps Config.stepsPerDraw L
  (L'.setWidth 16, L')

/-- The combination of three draws: the first shifted left 10, the second right 10, the third unshifted, in 16 bits
(R103). -/
def combineDraws (d1 d2 d3 : BitVec 16) : BitVec 16 := (d1 <<< 10) ^^^ (d2 >>> 10) ^^^ d3

/-- `NextU16`: the uniform value and the generator's state after three raw draws (R103). -/
def nextU16 (L : Word) : BitVec 16 × Word :=
  let (d1, L) := rawDraw L
  let (d2, L) := rawDraw L
  let (d3, L) := rawDraw L
  (combineDraws d1 d2 d3, L)

/-- The value that a fill writes, and the generator's state after it: one draw offset to zero mean, or the difference of
two draws (R105). -/
def fillValue (decor : Bool) (L : Word) : Int × Word :=
  let (a, L) := nextU16 L
  if decor then
    let (b, L) := nextU16 L
    ((a.toNat : Int) - b.toNat, L)
  else ((a.toNat : Int) - 0x8000, L)

/-- What a fill writes: LFSR and one pushed element of RWIN (R105). -/
def State.storeFill (v : Int) (L : Word) (s : State) : State :=
  { s with lfsr := L, rwin := push s.rwin (BitVec.ofInt 17 v) }

/-- `Fill(CFG.DECOR)`: advances LFSR and pushes one value into RWIN (R105, R106). -/
def State.fill (s : State) : Except Fault State := do
  let L ← s.readLfsr
  let (v, L) := fillValue s.decor L
  pure (s.storeFill v L)

end Sys2Proof.Machine
end

