-- ==== Sys2Proof/Machine/Quantizer.lean ====
section
/-! DEFINITION. The quantizer, the error feedback, and the two commands that run them: QUANT and QUANT4 (R107, R160 to
R174). -/

namespace Sys2Proof.Machine

/-- `Dither()`: fills RWIN, then filters it with CFG.DSEL (R107). -/
def State.dither (s : State) : Except Fault (Int × State) := do
  let s ← s.fill
  let W ← s.readRwin
  s.filter s.dsel W

/-- Step 2, the error-feedback term: the filter CFG.ESEL over EWIN as the previous sample left it (R163). -/
def State.errorTerm (s : State) : Except Fault (Int × State) := s.filter s.esel (signedView s.ewin)

/-- Step 3, the clamped pre-rounding sum P (R164). -/
def preSum (x : Scaled) (e : Int) : Int :=
  match x with
  | .finite n => sat64 (n + e)
  | .posInf => Config.accMax
  | .negInf => Config.accMin

/-- Step 3's clamp changed the sum; an infinite sample always does (R164). -/
def preSumClamped (x : Scaled) (e : Int) : Bool :=
  match x with
  | .finite n => n + e != sat64 (n + e)
  | .posInf => true
  | .negInf => true

/-- Step 4, `q = P + D + 2^(f-1)`, exact (R165). -/
def biased (f : Nat) (P D : Int) : Int := P + D + 2 ^ (f - 1)

/-- Step 5, the candidate output sample c (R166). -/
def candidate (f : Nat) (P D : Int) : Int := asr (biased f P D) f

/-- Step 6, the residual r, from the unsaturated candidate (R166). -/
def residual (f : Nat) (P D : Int) : Int := P - candidate f P D * 2 ^ f

/-- Step 6's write of the residual, saturated to 64 bits (R166). -/
def State.storeResidual (r : Int) (s : State) : State :=
  { s.raise satIntBit (r != sat64 r) with ewin := push s.ewin (BitVec.ofInt 64 (sat64 r)) }

/-- `Quantize(b)`: one sample through the seven steps; the output sample and the state after it (R161). -/
def quantize (b : Word) (s : State) : Except Fault (BitVec 16 × State) := do
  let f := s.fixbits
  let s := s.raise nanInBit (f32IsNan b)
  let x := scaleSample f b
  let (e, s) ← s.errorTerm
  let P := preSum x e
  let s := s.raise satAccBit (preSumClamped x e)
  let (D, s) ← s.dither
  let c := candidate f P D
  let s := s.storeResidual (residual f P D)
  let s := s.raise satOutBit (c != sat16 c)
  pure (BitVec.ofInt 16 (sat16 c), s)

/-- The outcome of a command whose work ended in `r`: a next state, or the fault it met. -/
def outcomeOf (r : Except Fault State) : Host.Outcome State Fault Refusal :=
  match r with
  | .ok s => .next s
  | .error f => .fault f

/-- QUANT (R168). -/
def execQuant (rsv : BitVec 28) (b : Word) (s : State) : Host.Outcome State Fault Refusal :=
  if rsv ≠ 0 then .next (s.reject .reservedBits)
  else outcomeOf do
    let (out, s) ← quantize b s
    pure (s.respond [sampleWord out])

/-- QUANT4: four quantizations in lane order, each on the state that the lane before it left (R171). -/
def execQuant4 (rsv : BitVec 28) (b0 b1 b2 b3 : Word) (s : State) : Host.Outcome State Fault Refusal :=
  if rsv ≠ 0 then .next (s.reject .reservedBits)
  else if !s.fast then .next (s.reject .notFast)
  else outcomeOf do
    let (o0, s) ← quantize b0 s
    let (o1, s) ← quantize b1 s
    let (o2, s) ← quantize b2 s
    let (o3, s) ← quantize b3 s
    pure (s.respond [laneWord o0 o1, laneWord o2 o3])

end Sys2Proof.Machine
end

