-- ==== Sys2Proof/Machine/Dispatch.lean ====
section
/-! DEFINITION. The meaning of each command, one arm a constructor. -/

namespace Sys2Proof.Machine

def exec (i : Instr) (s : State) : Host.Outcome State Fault Refusal :=
  match i with
  | .nop rsv => Sys2Proof.Machine.execNop rsv s
  | .init rsv seed => Sys2Proof.Machine.execInit rsv seed s
  | .cfg fast rsvHi fixm1 rsvLo decor dsel esel => Sys2Proof.Machine.execCfg fast rsvHi fixm1 rsvLo decor dsel esel s
  | .wcoef rsv idx bits => Sys2Proof.Machine.execWcoef rsv idx bits s
  | .quant rsv b => Sys2Proof.Machine.execQuant rsv b s
  | .quant4 rsv b0 b1 b2 b3 => Sys2Proof.Machine.execQuant4 rsv b0 b1 b2 b3 s
  | .rdreg rsv ridx => Sys2Proof.Machine.execRdreg rsv ridx s
  | .clrst rsv => Sys2Proof.Machine.execClrst rsv s

end Sys2Proof.Machine
end

