-- ==== Sys2Proof/Machine/Port.lean ====
section
/-! DEFINITION. How the core takes the host's words and resets from the command port (R57, R70, R71, R250, R251, R258). -/

namespace Sys2Proof.Machine

/-- What the core finds at the head of its input. -/
inductive Fetched where
  /-- a whole command, and the input after it -/
  | command (i : Instr) (rest : List PortEvent)
  /-- a command word with a reserved opcode, and the input after it -/
  | illegalOpcode (rest : List PortEvent)
  /-- a reset, and the input after it; a command partly delivered before it is abandoned -/
  | reset (rest : List PortEvent)
  /-- no whole command and no reset: the core goes on waiting for the host's words -/
  | waiting
  deriving DecidableEq, Repr

/-- The words delivered before the first reset, in order. -/
def leadingWords : List PortEvent → List Word
  | .word w :: rest => w :: leadingWords rest
  | .reset :: _ => []
  | [] => []

/-- The input from the first reset on. -/
def fromReset : List PortEvent → List PortEvent
  | .word _ :: rest => fromReset rest
  | .reset :: rest => .reset :: rest
  | [] => []

/-- Takes the next command, or the reset that stands before the next command is whole (R57, R70, R251). -/
def fetch (input : List PortEvent) : Fetched :=
  match decode (leadingWords input), fromReset input with
  | .command i rest, later => .command i (rest.map .word ++ later)
  | .illegalOpcode rest, later => .illegalOpcode (rest.map .word ++ later)
  | .incomplete, .reset :: later => .reset later
  | .incomplete, _ => .waiting

end Sys2Proof.Machine
end

