-- ==== Sys2Proof/Machine/Step.lean ====
section
/-! DEFINITION. One step of the core over whole commands and resets (R57, R262). -/

namespace Sys2Proof.Machine

/-- One step: the next whole command is taken from the port and executed; a reserved opcode is rejected; a reset takes
effect between commands (R251); with no whole command delivered, nothing changes (log entry 3). -/
def step (s : State) : Host.Outcome State Fault Refusal :=
  match fetch s.input with
  | .command i rest => exec i (s.withInput rest)
  | .illegalOpcode rest => .next ((s.withInput rest).reject .illegalOpcode)
  | .reset rest => .next (s.hostReset rest)
  | .waiting => .next s

/-- `s` with one instruction's words delivered at the head of the command port, so that the next step takes and executes
it. -/
def State.withFetchWord (s : State) (nbits w : Nat) : State :=
  { s with input := (tableWords nbits w).map .word ++ s.input }

end Sys2Proof.Machine
end

