-- ==== Sys2Proof/Machine/Session.lean ====
section
/-! DEFINITION. What the host makes of the commands: a list of commands executed in order (R57), the expansion CONVERT
(R92), and the samples it reads back from the responses (R54, R73). -/

namespace Sys2Proof.Machine

/-- The commands executed one at a time, completely, in the order delivered (R57), up to the first that faults. -/
def execAll : List Instr → State → Host.Outcome State Fault Refusal
  | [], s => .next s
  | i :: is, s =>
    match exec i s with
    | .next s' => execAll is s'
    | .fault f => .fault f
    | .refused r => .refused r

/-- CONVERT without the fast path: one QUANT a sample (R92). -/
def convertScalar (samples : List Word) : List Instr := samples.map (.quant 0)

/-- CONVERT with the fast path: QUANT4 for each four samples, then QUANT for the remainder (R92). -/
def convertFast : List Word → List Instr
  | b0 :: b1 :: b2 :: b3 :: rest => .quant4 0 b0 b1 b2 b3 :: convertFast rest
  | samples => convertScalar samples

/-- CONVERT's expansion: CFG.FAST chooses (R92). -/
def convert (fast : Bool) (samples : List Word) : List Instr :=
  if fast then convertFast samples else convertScalar samples

/-- The output samples that a response of QUANT (one word, the sample in bits 15:0) or QUANT4 (two words, two lanes each)
carries, in input order (R54, R92). -/
def Response.samples : Response → List (BitVec 16)
  | .ok [w] => [w.setWidth 16]
  | .ok [w0, w1] => [w0.extractLsb' 0 16, w0.extractLsb' 16 16, w1.extractLsb' 0 16, w1.extractLsb' 16 16]
  | .ok _ => []
  | .rej => []

/-- CONVERT's `out[]`: the samples of a conversion's responses, in order (R92). -/
def outputSamples (rs : List Response) : List (BitVec 16) := rs.flatMap Response.samples

end Sys2Proof.Machine
end

