-- ==== Sys2Proof/Machine/Assembler.lean ====
section
/-! DEFINITION. The assembler: the syntax of a line, what each form assembles to, and the pseudo-instructions (R83, R85 to
R87, R92). A line is a list of characters. -/

namespace Sys2Proof.Machine

/-- A decimal real as it is written: `mantissa / 10 ^ decimals`. -/
structure Decimal where
  mantissa : Int
  decimals : Nat
  deriving DecidableEq, Repr

/-- The binary32 pattern nearest to `num / den` under round-to-nearest-even (R85). Where R85 leaves the pattern open it is
the model's DESIGN CHOICE (log entry 9): the real 0 gives +0.0, a negative real other than 0 that rounds to zero gives -0.0
(0x80000000), and a real that rounds past the largest finite value gives the infinity of its sign. -/
def f32Nearest (num : Int) (den : Nat) : Word :=
  let a := num.natAbs * 2 ^ 149
  let e := Nat.log2 (a / den) - 23
  let d := den * 2 ^ e
  let q := a / d
  let r := a % d
  let m := if d < 2 * r ∨ (2 * r = d ∧ q % 2 = 1) then q + 1 else q
  let magnitude := min (e * 2 ^ 23 + m) 0x7F800000
  BitVec.ofNat 32 (if num < 0 then 0x80000000 + magnitude else magnitude)

/-- The pattern of a decimal real (R85). -/
def Decimal.bits (x : Decimal) : Word := f32Nearest x.mantissa (10 ^ x.decimals)

/-- The keys of a CFG line; an omitted key takes its reset value (R83). -/
structure CfgKeys where
  esel : BitVec 8 := 0
  dsel : BitVec 8 := 2
  decor : BitVec 1 := 0
  fixm1 : BitVec 4 := 15
  fast : BitVec 1 := 0
  deriving DecidableEq, Repr

/-- The command of a CFG line (R83). -/
def CfgKeys.instr (k : CfgKeys) : Instr := .cfg k.fast 0 k.fixm1 0 k.decor k.dsel k.esel

/-- A line of assembly (R83), the pseudo-instructions among them (R85 to R87). -/
inductive AsmLine where
  | comment
  | nop
  | init (seed : Word)
  | cfg (keys : CfgKeys)
  | wcoef (idx : BitVec 4) (bits : Word)
  | quant (b : Word)
  | quant4 (b0 b1 b2 b3 : Word)
  | rdreg (ridx : BitVec 8)
  | clrst
  /-- QUANTF x (R85) -/
  | quantf (x : Decimal)
  /-- WCOEFF i, x (R85) -/
  | wcoeff (idx : BitVec 4) (x : Decimal)
  /-- SETUP fixbits=F, dither=M, shaping=S, fast=A (R86) -/
  | setup (fixm1 : BitVec 4) (dither : BitVec 9) (shaping : BitVec 8) (fast : BitVec 1)
  /-- LOADCOEF c0, ..., with at most sixteen values (R87) -/
  | loadcoef (xs : List Decimal)
  deriving DecidableEq, Repr

/-- LOADCOEF: the values go to COEF[0], COEF[1], ...; fewer than sixteen leave the rest of COEF as it was (R87). Values past
the sixteenth are dropped, which no text line has (DESIGN CHOICE, log entry 10). -/
def loadCoef (xs : List Decimal) : List Instr :=
  (xs.take 16).zipIdx.map fun (x, i) => .wcoef 0 (BitVec.ofNat 4 i) x.bits

/-- The commands of a line (R83, R85 to R87). -/
def AsmLine.commands : AsmLine → List Instr
  | .comment => []
  | .nop => [.nop 0]
  | .init seed => [.init 0 seed]
  | .cfg keys => [keys.instr]
  | .wcoef idx bits => [.wcoef 0 idx bits]
  | .quant b => [.quant 0 b]
  | .quant4 b0 b1 b2 b3 => [.quant4 0 b0 b1 b2 b3]
  | .rdreg ridx => [.rdreg 0 ridx]
  | .clrst => [.clrst 0]
  | .quantf x => [.quant 0 x.bits]
  | .wcoeff idx x => [.wcoef 0 idx x.bits]
  | .setup fixm1 dither shaping fast =>
    [.cfg fast 0 fixm1 0 (dither.extractLsb' 8 1) (dither.extractLsb' 0 8) shaping]
  | .loadcoef xs => loadCoef xs

/-- The words a line assembles to (R83). -/
def AsmLine.words (l : AsmLine) : List Word := l.commands.flatMap encode

/-- The source's one operation `convert(...)`: SETUP, then CONVERT (R92, R264). DESIGN CHOICE (log entry 23): CONVERT takes
the path that SETUP's `fast` asks for, which is CFG.FAST once SETUP is accepted; R92 assumes that it was, and says nothing
of a CONVERT after a rejected SETUP. -/
def convertCall (fixm1 : BitVec 4) (dither : BitVec 9) (shaping : BitVec 8) (fast : BitVec 1) (samples : List Word) :
    List Instr :=
  (AsmLine.setup fixm1 dither shaping fast).commands ++ convert (fast == 1) samples

/-! The text of a line. -/

/-- The value of a hexadecimal digit. -/
def digitValue (c : Char) : Option Nat :=
  if '0' ≤ c ∧ c ≤ '9' then some (c.toNat - '0'.toNat)
  else if 'a' ≤ c ∧ c ≤ 'f' then some (c.toNat - 'a'.toNat + 10)
  else if 'A' ≤ c ∧ c ≤ 'F' then some (c.toNat - 'A'.toNat + 10)
  else none

/-- The digits `cs` read in a base after the value `acc`. -/
def digitsFrom (base : Nat) : Nat → List Char → Option Nat
  | acc, [] => some acc
  | acc, c :: cs =>
    match digitValue c with
    | some d => if d < base then digitsFrom base (base * acc + d) cs else none
    | none => none

/-- A number, decimal or `0x` hexadecimal (R83). -/
def parseNat : List Char → Option Nat
  | [] => none
  | ['0', 'x'] => none
  | '0' :: 'x' :: cs => digitsFrom 16 0 cs
  | cs => digitsFrom 10 0 cs

/-- A number that fits in `w` bits. -/
def parseBits (w : Nat) (cs : List Char) : Option (BitVec w) :=
  match parseNat cs with
  | some n => if n < 2 ^ w then some (BitVec.ofNat w n) else none
  | none => none

/-- Cuts a text at every `sep`. -/
def cutAt (sep : Char) : List Char → List (List Char)
  | [] => [[]]
  | c :: cs =>
    if c = sep then [] :: cutAt sep cs
    else
      match cutAt sep cs with
      | part :: parts => (c :: part) :: parts
      | [] => [[c]]

/-- Drops the spaces around a text. -/
def trim (cs : List Char) : List Char :=
  ((cs.dropWhile (· = ' ')).reverse.dropWhile (· = ' ')).reverse

/-- An unsigned decimal real: digits, and digits after a point if there is one (R85). -/
def parseUnsigned (cs : List Char) : Option Decimal :=
  match cutAt '.' cs with
  | [whole] => (parseDigits whole).map fun n => ⟨n, 0⟩
  | [whole, part] =>
    match parseDigits whole, digitsFrom 10 0 part with
    | some n, some p => some ⟨n * 10 ^ part.length + p, part.length⟩
    | _, _ => none
  | _ => none
where
  /-- At least one decimal digit. -/
  parseDigits (ds : List Char) : Option Nat := if ds = [] then none else digitsFrom 10 0 ds

/-- A decimal real, with a minus sign if there is one (R85). -/
def parseDecimal : List Char → Option Decimal
  | '-' :: cs => (parseUnsigned cs).map fun x => { x with mantissa := -x.mantissa }
  | cs => parseUnsigned cs

/-- A selector of a CFG line: a code, or one of the four names (R83). -/
def parseSelector (cs : List Char) : Option (BitVec 8) :=
  if cs = "NONE".toList then some 0
  else if cs = "RECTANGULAR".toList then some 1
  else if cs = "TRIANGULAR".toList then some 2
  else if cs = "USER".toList then some 255
  else parseBits 8 cs

/-- fixbits, 1 to 16, as FIXM1 (R32, R83). -/
def parseFixbits (cs : List Char) : Option (BitVec 4) :=
  match parseNat cs with
  | some n => if 1 ≤ n ∧ n ≤ 16 then some (BitVec.ofNat 4 (n - 1)) else none
  | none => none

/-- `key=value`, with the spaces around each dropped. -/
def keyValue (cs : List Char) : Option (List Char × List Char) :=
  match cutAt '=' cs with
  | [key, value] => some (trim key, trim value)
  | _ => none

/-- The keys of a CFG line, in any order, over those already set (R83). -/
def parseCfgKeys (keys : CfgKeys) : List (List Char) → Option CfgKeys
  | [] => some keys
  | op :: ops =>
    match keyValue op with
    | none => none
    | some (key, value) =>
      let set : Option CfgKeys :=
        if key = "esel".toList then (parseSelector value).map fun v => { keys with esel := v }
        else if key = "dsel".toList then (parseSelector value).map fun v => { keys with dsel := v }
        else if key = "decor".toList then (parseBits 1 value).map fun v => { keys with decor := v }
        else if key = "fixbits".toList then (parseFixbits value).map fun v => { keys with fixm1 := v }
        else if key = "fast".toList then (parseBits 1 value).map fun v => { keys with fast := v }
        else none
      match set with
      | some keys => parseCfgKeys keys ops
      | none => none

/-- The value written for a key in a list of `key=value` operands. -/
def valueOf (key : List Char) (ops : List (List Char)) : Option (List Char) :=
  ops.findSome? fun op =>
    match keyValue op with
    | some (k, v) => if k = key then some v else none
    | none => none

/-- SETUP's four operands (R86). DESIGN CHOICE (log entry 10): the four stand in any order, each once, and each value is a
number; `shaping=` does not take the names that R83 gives `esel=`. -/
def parseSetup (ops : List (List Char)) : Option AsmLine := do
  let f ← valueOf "fixbits".toList ops
  let m ← valueOf "dither".toList ops
  let sh ← valueOf "shaping".toList ops
  let a ← valueOf "fast".toList ops
  if ops.length = 4 then
    pure (.setup (← parseFixbits f) (← parseBits 9 m) (← parseBits 8 sh) (← parseBits 1 a))
  else none

/-- Every operand as a decimal real. -/
def parseDecimals : List (List Char) → Option (List Decimal)
  | [] => some []
  | op :: ops =>
    match parseDecimal op, parseDecimals ops with
    | some x, some xs => some (x :: xs)
    | _, _ => none

/-- A mnemonic with its operands (R83, R85 to R87). -/
def parseCommand (mnemonic : List Char) (ops : List (List Char)) : Option AsmLine :=
  if mnemonic = "NOP".toList then (if ops = [] then some .nop else none)
  else if mnemonic = "CLRST".toList then (if ops = [] then some .clrst else none)
  else if mnemonic = "CFG".toList then (parseCfgKeys {} ops).map .cfg
  else if mnemonic = "SETUP".toList then parseSetup ops
  else if mnemonic = "LOADCOEF".toList then
    if 1 ≤ ops.length ∧ ops.length ≤ 16 then (parseDecimals ops).map .loadcoef else none
  else if mnemonic = "INIT".toList then
    match ops with
    | [seed] => (parseBits 32 seed).map .init
    | _ => none
  else if mnemonic = "QUANT".toList then
    match ops with
    | [b] => (parseBits 32 b).map .quant
    | _ => none
  else if mnemonic = "QUANTF".toList then
    match ops with
    | [x] => (parseDecimal x).map .quantf
    | _ => none
  else if mnemonic = "RDREG".toList then
    match ops with
    | [i] => (parseBits 8 i).map .rdreg
    | _ => none
  else if mnemonic = "WCOEF".toList then
    match ops with
    | [i, b] => do pure (.wcoef (← parseBits 4 i) (← parseBits 32 b))
    | _ => none
  else if mnemonic = "WCOEFF".toList then
    match ops with
    | [i, x] => do pure (.wcoeff (← parseBits 4 i) (← parseDecimal x))
    | _ => none
  else if mnemonic = "QUANT4".toList then
    match ops with
    | [b0, b1, b2, b3] => do
      pure (.quant4 (← parseBits 32 b0) (← parseBits 32 b1) (← parseBits 32 b2) (← parseBits 32 b3))
    | _ => none
  else none

/-- One line of assembly: a comment, or a mnemonic and its comma-separated operands (R83); `none` for a text that is no
line of R83 or R85 to R87. DESIGN CHOICE (log entry 10): a comment's `;` is the line's very first character, so a `;` after
spaces or after a command makes the text no line; the spaces around a command are dropped. -/
def parseLine : List Char → Option AsmLine
  | ';' :: _ => some .comment
  | cs =>
    let cs := trim cs
    let mnemonic := cs.takeWhile (· ≠ ' ')
    let rest := trim (cs.dropWhile (· ≠ ' '))
    parseCommand mnemonic (if rest = [] then [] else (cutAt ',' rest).map trim)

/-- The words that the text of a line assembles to (R83). -/
def assembleLine (line : String) : Option (List Word) := (parseLine line.toList).map AsmLine.words

end Sys2Proof.Machine
end

