-- ==== Sys2Proof/Safety.lean ====
section
/-! DEFINITION. What the spec says the core always holds, and what counts as a safe step. -/

namespace Sys2Proof.Machine

/-- A legal configuration: the bits that read 0 are 0 (R34), both selectors are codes of R80, and FAST is 1 only in its one
configuration (R28, R33). -/
abbrev CfgLegal (cfg : Word) : Prop :=
  cfg.extractLsb' 28 4 = 0 ∧ cfg.extractLsb' 24 3 = 0 ∧ cfg.extractLsb' 17 3 = 0 ∧
    selectorLegal (cfg.extractLsb' 0 8) = true ∧ selectorLegal (cfg.extractLsb' 8 8) = true ∧
    (cfg.extractLsb' 27 1 = 1 →
      fastAllowed (cfg.extractLsb' 20 4) (cfg.extractLsb' 16 1) (cfg.extractLsb' 8 8) (cfg.extractLsb' 0 8) = true)

/-- STATUS as the core can hold it: bits 31:9 are 0 (R35), ERRCODE is at most 7 (R222), and it is 0 exactly while no
rejection has set ERR (R36, R37). -/
abbrev StatusLegal (status : Word) : Prop :=
  status.extractLsb' 9 23 = 0 ∧ status.extractLsb' 3 1 = 0 ∧
    (status.getLsbD 4 = true ↔ status.extractLsb' 0 4 ≠ 0)

/-- The states that the spec says the core can be in: LFSR is never 0 (R22), RWIN never holds -65536 (R23), COEF is always
finite (R26), CFG always legal (R28), STATUS as `StatusLegal`. -/
abbrev State.Legal (s : State) : Prop :=
  s.lfsr ≠ 0 ∧ s.RwinInRange ∧ CoefFinite s.coef ∧ CfgLegal s.cfg ∧ StatusLegal s.status

/-- A safe step: the core goes on to a next state. The spec gives it no halt and no undefined behaviour (R220, R243). -/
def State.StepsOn (s : State) : Prop := ∃ t, step s = .next t

end Sys2Proof.Machine
end

