-- ==== Sys2Proof/Certificates/Slice0/Obligations.lean ====
section
/-! DEFINITION. The statements for the provers, from the numbered rules of the spec. -/

open Sys2Proof Sys2Proof.Machine

namespace Sys2Proof.Claims

/-! The spec's own formulas, written again from its words, so that a statement does not lean on the definition it is
about. -/

/-- `raise Reject(code)` as R221 writes it: ERR set, ERRCODE the code, the response REJ, nothing else changed. -/
def rejectedWith (code : Nat) (s : State) : State :=
  { s with
    status := (s.status &&& 0xFFFFFFF0#32) ||| 0x10#32 ||| BitVec.ofNat 32 code
    responses := s.responses ++ [.rej] }

/-- The codes that are selectors: 0..8 and 255 (R80). -/
abbrev SelectorCode (code : BitVec 8) : Prop := code.toNat ≤ 8 ∨ code.toNat = 255

/-- The exponent field is 0xFF: an infinity or a NaN (R160). -/
abbrev NotFinite (b : Word) : Prop := b.toNat / 2 ^ 23 % 256 = 255

/-- A pattern that is a NaN (R160). -/
abbrev IsNan (b : Word) : Prop := NotFinite b ∧ b.toNat % 2 ^ 23 ≠ 0

/-- A pattern that is an infinity (R160). -/
abbrev IsInf (b : Word) : Prop := NotFinite b ∧ b.toNat % 2 ^ 23 = 0

/-- The exact value of a finite pattern, as R160 writes it. -/
def f32Value (b : Word) : ℚ :=
  let sgn : Nat := b.toNat / 2 ^ 31
  let E : Nat := b.toNat / 2 ^ 23 % 256
  let F : Nat := b.toNat % 2 ^ 23
  (-1) ^ sgn * (if E = 0 then (F : ℚ) * 2 ^ (-149 : ℤ) else (2 ^ 23 + F : ℚ) * 2 ^ ((E : ℤ) - 150))

/-- `sat64` (R9). -/
def clamp64 (v : Int) : Int := max (-2 ^ 63) (min v (2 ^ 63 - 1))

/-- `sat16` (R9). -/
def clamp16 (v : Int) : Int := max (-32768) (min v 32767)

/-- `RHA(n/d)` as R136 writes it. -/
def roundHalfAway (n : Int) (d : Nat) : Int := Int.sign n * ((2 * |n| + d) / (2 * d))

/-- The sum of a filter's coefficients times the window's values, exactly (R147). -/
def userSumRat (coef : Window 32) (W : Lookback) : ℚ := ∑ i : Fin 16, f32Value coef[i] * (W[i] : ℚ)

/-- The sixteen zeros of a cleared window (R192, R250). -/
def zeros (w : Nat) : Window w := Vector.ofFn fun _ => 0

/-- The coefficients that make selector 255 act as selector 1: 1.0, then zeros (R149). -/
def unitCoef : Window 32 := Vector.ofFn fun i => if i.val = 0 then 0x3F800000#32 else 0

/-- CFG with another ESEL (R28). -/
def withEsel (code : BitVec 8) (cfg : Word) : Word := (cfg &&& 0xFFFFFF00#32) ||| code.setWidth 32

/-- The reserved mask of a command word's format (R75); the reserved opcodes have none. -/
def reservedMask (cw : Word) : Word :=
  match cw.toNat / 2 ^ 28 with
  | 2 => 0x070E0000
  | 3 => 0x0FFFFFF0
  | 6 => 0x0FFFFF00
  | 0 => 0x0FFFFFFF
  | 1 => 0x0FFFFFFF
  | 4 => 0x0FFFFFFF
  | 5 => 0x0FFFFFFF
  | 7 => 0x0FFFFFFF
  | _ => 0

/-- The opcode map's match value and mask for each command (R78). -/
def mapRow : Instr → Word × Word
  | .nop _ => (0x00000000, 0xFFFFFFFF)
  | .init _ _ => (0x10000000, 0xFFFFFFFF)
  | .cfg _ _ _ _ _ _ _ => (0x20000000, 0xF70E0000)
  | .wcoef _ _ _ => (0x30000000, 0xFFFFFFF0)
  | .quant _ _ => (0x40000000, 0xFFFFFFFF)
  | .quant4 _ _ _ _ _ => (0x50000000, 0xFFFFFFFF)
  | .rdreg _ _ => (0x60000000, 0xFFFFFF00)
  | .clrst _ => (0x70000000, 0xFFFFFFFF)

/-- How many operand words an opcode takes (R71). -/
def operandWords (opc : Nat) : Nat := if opc = 5 then 4 else if opc = 1 ∨ opc = 3 ∨ opc = 4 then 1 else 0

/-- How many data words a command's OK response carries (R73). -/
def responseWords : Instr → Nat
  | .quant _ _ => 1
  | .quant4 _ _ _ _ _ => 2
  | .rdreg _ _ => 1
  | .nop _ => 0
  | .init _ _ => 0
  | .cfg _ _ _ _ _ _ _ => 0
  | .wcoef _ _ _ => 0
  | .clrst _ => 0

/-- QUANT, QUANT4 and INIT: the commands that may write LFSR and the windows (R110, R201). -/
def WritesSession : Instr → Prop
  | .quant _ _ => True
  | .quant4 _ _ _ _ _ => True
  | .init _ _ => True
  | .nop _ => False
  | .cfg _ _ _ _ _ _ _ => False
  | .wcoef _ _ _ => False
  | .rdreg _ _ => False
  | .clrst _ => False

end Sys2Proof.Claims

open Sys2Proof.Claims

/-! ## The stream of words: framing, decoding, encoding -/

/-- Decoding the words of a command gives the command back, and leaves the words after it (R70, R71, R74). Every operand
takes every value of its field, the reserved bits too. -/
def Obligations.DecodeOfEncodeIsTheCommand : Prop :=
  ∀ (i : Instr) (rest : List Word), decode (encode i ++ rest) = .command i rest

/-- The words a command is decoded from are the words it encodes to: the decoder drops no bit (R70, R71, R74). -/
def Obligations.EncodeOfDecodeIsTheWords : Prop :=
  ∀ (ws rest : List Word) (i : Instr), decode ws = .command i rest → encode i ++ rest = ws

/-- R71: the opcode alone fixes how many words a command takes. With all its operand words delivered, the decoder takes
exactly them, whatever the body and the operands; with fewer, it takes nothing. -/
def Obligations.OpcodeAloneFramesTheCommand : Prop :=
  ∀ (cw : Word) (ops rest : List Word),
    (ops.length = operandWords (cw.toNat / 2 ^ 28) →
      (∃ i, decode (cw :: (ops ++ rest)) = .command i rest) ∨ decode (cw :: (ops ++ rest)) = .illegalOpcode rest) ∧
    (ops.length < operandWords (cw.toNat / 2 ^ 28) → decode (cw :: ops) = .incomplete)

/-- R78: a command's reserved bits are legal exactly when its command word matches its row of the opcode map under the
row's mask. -/
def Obligations.WellFormedIsTheOpcodeMap : Prop :=
  ∀ (i : Instr) (cw : Word) (ops : List Word), encode i = cw :: ops →
    (i.wellFormed = true ↔ cw &&& (mapRow i).2 = (mapRow i).1)

/-- A few command words written out bit by bit from R74 decode to the commands they stand for. -/
def Obligations.WrittenOutWordsDecode : Prop :=
  decode [0x20710204#32] = .command (.cfg 0 0 7 0 1 2 4) [] ∧
  decode [0x28F00200#32] = .command (.cfg 1 0 15 0 0 2 0) [] ∧
  decode [0x30000005#32, 0xC0490FDB#32] = .command (.wcoef 0 5 0xC0490FDB) [] ∧
  decode [0x60000045#32] = .command (.rdreg 0 0x45) [] ∧
  decode [0x40000000#32, 0x3F000000#32] = .command (.quant 0 0x3F000000) [] ∧
  decode [0x90000000#32] = .illegalOpcode []

/-- R223, R79: a command word whose opcode is 0x8 to 0xF is rejected with ILLEGAL_OPCODE, whatever its body, and takes no
operand words. -/
def Obligations.ReservedOpcodeIsRejectedAlone : Prop :=
  ∀ (s : State) (cw : Word) (later : List PortEvent), s.input = .word cw :: later → 8 ≤ cw.toNat / 2 ^ 28 →
    step s = .next (rejectedWith 1 { s with input := later })

/-- R75, R224: a defined command whose word has a bit set under its format's reserved mask is rejected with RESERVED_BITS,
before every other check. -/
def Obligations.ReservedBitIsRejected : Prop :=
  ∀ (s : State) (i : Instr) (cw : Word) (ops : List Word), encode i = cw :: ops → cw &&& reservedMask cw ≠ 0 →
    exec i s = .next (rejectedWith 2 s)

/-! ## The step, the ports and the reset -/

/-- When the words at the head of the input decode to a command, the step is that command's meaning on the state with
those words taken from the port, the rest of the input left (R57, R70). -/
def Obligations.StepRunsTheDecodedCommand : Prop :=
  ∀ (s : State) (ws rest : List Word) (later : List PortEvent) (i : Instr), s.input = ws.map .word ++ later →
    decode ws = .command i rest → step s = exec i { s with input := rest.map .word ++ later }

/-- R250: a reset before the next command is whole sets every element of the state to its reset value and discards the
partly delivered command. That the input after it and the responses already returned stay is the model's choice (log
entries 1, 2 and 14). -/
def Obligations.ResetSetsEveryElement : Prop :=
  ∀ (s : State) (ws : List Word) (later : List PortEvent), s.input = ws.map .word ++ .reset :: later →
    decode ws = .incomplete →
    step s = .next {
      lfsr := 0x00000001
      rwin := zeros 17
      ewin := zeros 64
      coef := unitCoef
      cfg := 0x00F00200
      status := 0
      input := later
      responses := s.responses }

/-- While the words delivered are no whole command and no reset, the core goes on waiting and nothing changes. That a wait
is a step that changes nothing is the model's choice (log entry 3). -/
def Obligations.IncompleteCommandWaits : Prop :=
  ∀ (s : State) (ws : List Word), s.input = ws.map .word → decode ws = .incomplete → step s = .next s

/-- R39, R250: the values the core has after reset. The empty input and response lists are the model's own fields (log
entries 1 and 2). -/
def Obligations.ResetValues : Prop :=
  State.reset.lfsr = 1 ∧ (∀ k : Fin 16, State.reset.rwin[k] = 0 ∧ State.reset.ewin[k] = 0) ∧
  State.reset.coef[0] = 0x3F800000 ∧ (∀ k : Fin 16, k ≠ 0 → State.reset.coef[k] = 0) ∧
  State.reset.cfg = 0x00F00200 ∧ State.reset.status = 0 ∧ State.reset.input = [] ∧ State.reset.responses = []

/-- The state after reset is legal: LFSR not 0, RWIN never -65536, COEF finite, CFG and STATUS legal. -/
def Obligations.ResetIsLegal : Prop := State.reset.Legal

/-- Every step keeps what the spec says the core always holds: LFSR is never 0 (R22), RWIN never holds -65536 (R23), COEF is
always finite (R26), CFG is always legal (R28, R33, R34), STATUS bits 31:9 read 0 and ERRCODE is one of R222's codes
(R35, R222). -/
def Obligations.StepKeepsLegal : Prop :=
  ∀ s t : State, s.Legal → step s = .next t → t.Legal

/-- From a legal state the core always goes on: no halt, no undefined behaviour (R220, R243). -/
def Obligations.LegalStateStepsOn : Prop :=
  ∀ s : State, s.Legal → ∃ t, step s = .next t

/-! ## Responses and rejection, over all commands -/

/-- R73: an OK response carries as many data words as R73 gives the command; otherwise the response is REJ. Each command
returns exactly one response, after the earlier ones. -/
def Obligations.EveryCommandAnswersOnce : Prop :=
  ∀ (i : Instr) (s t : State), exec i s = .next t →
    t.responses = s.responses ++ [.rej] ∨
      ∃ data, data.length = responseWords i ∧ t.responses = s.responses ++ [.ok data]

/-- R221: a command that answers REJ changes nothing but STATUS.ERR, STATUS.ERRCODE and the response, and ERRCODE becomes
one of the codes 2 to 7 (code 1 belongs to no command of the table). -/
def Obligations.RejectionIsPrecise : Prop :=
  ∀ (i : Instr) (s t : State), exec i s = .next t → t.responses = s.responses ++ [.rej] →
    ∃ code, 2 ≤ code ∧ code ≤ 7 ∧ t = rejectedWith code s

/-- R37: the sticky bits ERR, SAT_OUT, SAT_ACC, NAN_IN and SAT_INT go back to 0 only by an accepted CLRST: any other
command keeps every one that is set. -/
def Obligations.StickyBitsStay : Prop :=
  ∀ (i : Instr) (s t : State), exec i s = .next t → i ≠ .clrst 0 →
    s.status &&& 0x1F0#32 &&& t.status = s.status &&& 0x1F0#32

/-- R36: an accepted command other than CLRST does not change ERRCODE or ERR. -/
def Obligations.AcceptedCommandKeepsErrCode : Prop :=
  ∀ (i : Instr) (s t : State) (data : List Word), exec i s = .next t → t.responses = s.responses ++ [.ok data] →
    i ≠ .clrst 0 → t.status &&& 0x1F#32 = s.status &&& 0x1F#32

/-- R37: no flag is an input to any computation. Whatever STATUS holds, a command other than RDREG of STATUS does the same
to every other element, gives the same response, and faults alike. -/
def Obligations.StatusIsNoInput : Prop :=
  ∀ (i : Instr) (s : State) (status : Word), i ≠ .rdreg 0 0x01 →
    (∀ t, exec i s = .next t → ∃ st, exec i { s with status := status } = .next { t with status := st }) ∧
    (∀ f, exec i s = .fault f → exec i { s with status := status } = .fault f)

/-- Who may write what (R22, R23, R24, R26, R28, R110, R201): LFSR, RWIN and EWIN change only by QUANT, QUANT4 and INIT, COEF
only by WCOEF, CFG only by CFG, and no command touches the input. -/
def Obligations.OnlyTheirCommandsWrite : Prop :=
  ∀ (i : Instr) (s t : State), exec i s = .next t →
    (¬ WritesSession i → t.lfsr = s.lfsr ∧ t.rwin = s.rwin ∧ t.ewin = s.ewin) ∧
    (t.coef ≠ s.coef → ∃ idx bits, i = .wcoef 0 idx bits) ∧
    (t.cfg ≠ s.cfg → ∃ fast fixm1 decor dsel esel, i = .cfg fast 0 fixm1 0 decor dsel esel) ∧
    t.input = s.input

/-! ## The control commands -/

/-- R190: NOP is the all-zero word; it does nothing and answers OK, and with any body bit set it is rejected with
RESERVED_BITS. -/
def Obligations.NopDoesNothing : Prop :=
  encode (.nop 0) = [0x00000000#32] ∧
  ∀ s : State, exec (.nop 0) s = .next { s with responses := s.responses ++ [.ok []] } ∧
    ∀ rsv, rsv ≠ 0 → exec (.nop rsv) s = .next (rejectedWith 2 s)

/-- R192: INIT loads LFSR with the seed, RESET_SEED in place of a seed of 0, zero-fills both windows, and changes nothing
else; the seeds 0 and 1 give the same state, whose session part is that of the reset state. The draw is the rule's own
example. -/
def Obligations.InitStartsASession : Prop :=
  (∀ seed : Word, encode (.init 0 seed) = [0x10000000#32, seed]) ∧
  (∀ (s : State) (seed : Word), exec (.init 0 seed) s = .next
    { s with
      lfsr := if seed = 0 then 0x00000001 else seed
      rwin := zeros 17
      ewin := zeros 64
      responses := s.responses ++ [.ok []] }) ∧
  (∀ s : State, exec (.init 0 0) s = exec (.init 0 1) s) ∧
  (∀ s : State, ∃ t, exec (.init 0 1) s = .next t ∧ t.lfsr = State.reset.lfsr ∧ t.rwin = State.reset.rwin ∧
    t.ewin = State.reset.ewin) ∧
  rawDraw 0x12345678#32 = (0xB451#16, 0x5678B451#32) ∧
  (∀ (s : State) (rsv : BitVec 28) (seed : Word), rsv ≠ 0 → exec (.init rsv seed) s = .next (rejectedWith 2 s))

/-- R194: CFG writes the whole register, and is rejected, in this order, for a reserved bit, for a code that is no selector,
and for FAST outside its one configuration; a rejected CFG leaves CFG unchanged. -/
def Obligations.CfgWritesWholeOrIsRejectedInOrder : Prop :=
  ∀ (s : State) (fast : BitVec 1) (rsvHi : BitVec 3) (fixm1 : BitVec 4) (rsvLo : BitVec 3) (decor : BitVec 1)
    (dsel esel : BitVec 8),
    let i := Instr.cfg fast rsvHi fixm1 rsvLo decor dsel esel
    ((rsvHi ≠ 0 ∨ rsvLo ≠ 0) → exec i s = .next (rejectedWith 2 s)) ∧
    (rsvHi = 0 → rsvLo = 0 → ¬ (SelectorCode esel ∧ SelectorCode dsel) → exec i s = .next (rejectedWith 3 s)) ∧
    (rsvHi = 0 → rsvLo = 0 → SelectorCode esel → SelectorCode dsel →
      ¬ (fast = 1 → dsel = 2 ∧ decor = 0 ∧ esel = 0 ∧ fixm1 = 15) → exec i s = .next (rejectedWith 4 s)) ∧
    (rsvHi = 0 → rsvLo = 0 → SelectorCode esel → SelectorCode dsel →
      (fast = 1 → dsel = 2 ∧ decor = 0 ∧ esel = 0 ∧ fixm1 = 15) →
      ∃ cw : Word, encode i = [cw] ∧ cw.toNat = 2 * 2 ^ 28 + fast.toNat * 2 ^ 27 + fixm1.toNat * 2 ^ 20 +
          decor.toNat * 2 ^ 16 + dsel.toNat * 2 ^ 8 + esel.toNat ∧
        exec i s = .next { s with cfg := cw &&& 0x0FFFFFFF#32, responses := s.responses ++ [.ok []] })

/-- R196: WCOEF stores a finite pattern unchanged in COEF[idx] and nothing else; it is rejected for a reserved bit, then for
an infinity or a NaN. -/
def Obligations.WcoefStoresAFinitePattern : Prop :=
  ∀ (s : State) (idx : BitVec 4) (bits : Word),
    encode (.wcoef 0 idx bits) = [0x30000000#32 ||| idx.setWidth 32, bits] ∧
    (¬ NotFinite bits → exec (.wcoef 0 idx bits) s = .next
      { s with
        coef := Vector.ofFn fun k => if k.val = idx.toNat then bits else s.coef[k]
        responses := s.responses ++ [.ok []] }) ∧
    (NotFinite bits → exec (.wcoef 0 idx bits) s = .next (rejectedWith 5 s)) ∧
    (∀ rsv, rsv ≠ 0 → exec (.wcoef rsv idx bits) s = .next (rejectedWith 2 s))

/-- R200: RDREG answers the element that its index maps to, with no other effect; an unmapped index is rejected with
BAD_INDEX, a reserved bit with RESERVED_BITS. The premises are the parts of the legal-state invariant that the read
elements need. -/
def Obligations.RdregReadsTheIndexMap : Prop :=
  ∀ s : State, s.lfsr ≠ 0 → s.RwinInRange →
    let answers (index : Nat) (v : Word) : Prop :=
      exec (.rdreg 0 (BitVec.ofNat 8 index)) s = .next { s with responses := s.responses ++ [.ok [v]] }
    answers 0x00 s.cfg ∧ answers 0x01 s.status ∧ answers 0x02 s.lfsr ∧
    (∀ k : Fin 16, answers (0x10 + k) s.coef[k]) ∧
    (∀ k : Fin 16, answers (0x20 + k) (BitVec.ofInt 32 s.rwin[k].toInt)) ∧
    (∀ k : Fin 16, answers (0x40 + 2 * k) (BitVec.ofNat 32 s.ewin[k].toNat)) ∧
    (∀ k : Fin 16, answers (0x41 + 2 * k) (BitVec.ofNat 32 (s.ewin[k].toNat / 2 ^ 32))) ∧
    (∀ ridx : BitVec 8, (0x03 ≤ ridx.toNat ∧ ridx.toNat ≤ 0x0F ∨ 0x30 ≤ ridx.toNat ∧ ridx.toNat ≤ 0x3F ∨
      0x60 ≤ ridx.toNat) → exec (.rdreg 0 ridx) s = .next (rejectedWith 6 s)) ∧
    (∀ (rsv : BitVec 20) (ridx : BitVec 8), rsv ≠ 0 → exec (.rdreg rsv ridx) s = .next (rejectedWith 2 s)) ∧
    (∀ ridx : BitVec 8, encode (.rdreg 0 ridx) = [0x60000000#32 ||| ridx.setWidth 32])

/-- R202: CLRST sets every field of STATUS to 0 and touches nothing else; a rejected CLRST clears nothing. -/
def Obligations.ClrstClearsStatus : Prop :=
  encode (.clrst 0) = [0x70000000#32] ∧
  ∀ s : State, exec (.clrst 0) s = .next { s with status := 0, responses := s.responses ++ [.ok []] } ∧
    ∀ rsv, rsv ≠ 0 → exec (.clrst rsv) s = .next (rejectedWith 2 s)

/-! ## The random-number source and the fill -/

/-- One step of the generator (R101): every bit moves one place up, the new bit 0 is the exclusive or of bits 31, 21, 1 and
0, no two states have the same successor, and only 0 goes to 0. -/
def Obligations.LfsrStepIsAPermutation : Prop :=
  (∀ (L : Word) (k : Nat), k < 31 → (lfsrStep L).getLsbD (k + 1) = L.getLsbD k) ∧
  (∀ L : Word, (lfsrStep L).getLsbD 0 = (L.getLsbD 31 ^^ L.getLsbD 21 ^^ L.getLsbD 1 ^^ L.getLsbD 0)) ∧
  (∀ L M : Word, lfsrStep L = lfsrStep M → L = M) ∧
  (∀ L : Word, lfsrStep L = 0 ↔ L = 0)

/-- R102, R22: after a raw draw LFSR[15:0] is the draw and LFSR[31:16] is what LFSR[15:0] was, the draw before it. -/
def Obligations.RawDrawKeepsTheLastTwoDraws : Prop :=
  ∀ L : Word, (rawDraw L).2.extractLsb' 0 16 = (rawDraw L).1 ∧ (rawDraw L).2.extractLsb' 16 16 = L.extractLsb' 0 16

/-- R103: NextU16 makes three raw draws and combines them; u[15:10] = d1[5:0] ^ d3[15:10], u[9:6] = d3[9:6] and
u[5:0] = d2[15:10] ^ d3[5:0]. -/
def Obligations.NextU16CombinesThreeDraws : Prop :=
  ∀ L : Word,
    let d1 := (rawDraw L).1
    let L1 := (rawDraw L).2
    let d2 := (rawDraw L1).1
    let L2 := (rawDraw L1).2
    let d3 := (rawDraw L2).1
    let u := (nextU16 L).1
    (nextU16 L).2 = (rawDraw L2).2 ∧
    u.extractLsb' 10 6 = d1.extractLsb' 0 6 ^^^ d3.extractLsb' 10 6 ∧
    u.extractLsb' 6 4 = d3.extractLsb' 6 4 ∧
    u.extractLsb' 0 6 = d2.extractLsb' 10 6 ^^^ d3.extractLsb' 0 6

/-- R105, R106: every quantized sample, whatever the selectors, pushes exactly one value into RWIN: one draw less 0x8000, or
the first of two draws less the second. The element holds the value exactly. -/
def Obligations.EverySampleFillsOnce : Prop :=
  ∀ (s : State) (b : Word), s.Legal → ∃ t, exec (.quant 0 b) s = .next t ∧
    (s.decor = false → t.rwin[0].toInt = (nextU16 s.lfsr).1.toNat - 0x8000 ∧ t.lfsr = (nextU16 s.lfsr).2) ∧
    (s.decor = true →
      t.rwin[0].toInt = ((nextU16 s.lfsr).1.toNat : Int) - (nextU16 (nextU16 s.lfsr).2).1.toNat ∧
      t.lfsr = (nextU16 (nextU16 s.lfsr).2).2) ∧
    (∀ k : Fin 15, t.rwin[k.val + 1] = s.rwin[k.val])

/-- R109: a quantized sample takes 48 LFSR steps with DECOR = 0 and 96 with DECOR = 1, whatever DSEL, ESEL, fixbits and the
sample are. -/
def Obligations.DrawCountDependsOnDecorAlone : Prop :=
  ∀ (s : State) (b : Word), s.Legal → ∃ t, exec (.quant 0 b) s = .next t ∧
    t.lfsr = lfsrSteps (if s.cfg.getLsbD 16 then 96 else 48) s.lfsr

/-- R41: in a QUANT, LFSR reaches nothing but RWIN. With DSEL = 0, whose filter does not read RWIN, a QUANT on two legal
cores that differ in LFSR and RWIN alone gives the same response and leaves the same EWIN, COEF, CFG and STATUS. It speaks
of QUANT alone: RDREG answers LFSR and RWIN whatever DSEL is (R200). -/
def Obligations.WithoutDitherTheGeneratorIsUnseen : Prop :=
  ∀ (s : State) (b L : Word) (R : Window 17), s.Legal → { s with lfsr := L, rwin := R }.Legal → s.dsel = 0 →
    ∃ t u, exec (.quant 0 b) s = .next t ∧ exec (.quant 0 b) { s with lfsr := L, rwin := R } = .next u ∧
      u = { t with lfsr := u.lfsr, rwin := u.rwin }

/-- The states that the hardware never holds (`93_implementation_defined.md` X10, X11): where LFSR is 0 a sample and RDREG of
LFSR fault, and where an element of RWIN is -65536 RDREG of it does. That a read of the value is where it is reached is
the model's choice (log entry 7). -/
def Obligations.UnreachableValuesFault : Prop :=
  (∀ (s : State) (b : Word), s.lfsr = 0 → ∃ f, exec (.quant 0 b) s = .fault f) ∧
  (∀ s : State, s.lfsr = 0 → exec (.rdreg 0 0x02) s = .fault .lfsrZero) ∧
  (∀ (s : State) (k : Fin 16), s.rwin[k].toInt = -65536 →
    exec (.rdreg 0 (BitVec.ofNat 8 (0x20 + k))) s = .fault .rwinOutOfRange)

/-! ## The filter bank -/

/-- R136: RHA(n/d) is a nearest integer to n/d, and where two are equally near it is the one further from zero. -/
def Obligations.RhaIsNearestHalvesAway : Prop :=
  ∀ (n : Int) (d : Nat), 0 < d →
    rha n d = roundHalfAway n d ∧ 2 * |n - rha n d * d| ≤ d ∧ (2 * |n - rha n d * d| = d → |n| < |rha n d * d|)

/-- The fixed selectors compute the formulas of R138 to R146, whatever COEF holds. Selectors 3, 5, 6 and 7 are the spec's own
readings, parameters at their defaults (log entry 5). -/
def Obligations.FixedSelectorsComputeTheirFormulas : Prop :=
  ∀ (coef : Window 32) (W : Lookback),
    filterExact coef 0 W = .ok 0 ∧
    filterExact coef 1 W = .ok W[0] ∧
    filterExact coef 2 W = .ok (W[0] - W[1]) ∧
    filterExact coef 3 W = .ok (W[0] + (W[0] - 2 * W[1] + W[2]) / 2) ∧
    filterExact coef 4 W = .ok (roundHalfAway
      (20330 * W[0] - 21650 * W[1] + 19590 * W[2] - 15900 * W[3] + 6149 * W[4]) 10000) ∧
    filterExact coef 5 W = .ok (W[1] - W[0]) ∧
    filterExact coef 6 W = .ok (W[0] + (2 * W[1] - W[0] - W[2]) / 2) ∧
    filterExact coef 7 W = .ok (W[2] - W[1]) ∧
    filterExact coef 8 W = .ok (roundHalfAway
      (-10000 * W[0] + 20330 * W[1] - 21650 * W[2] + 19590 * W[3] - 15900 * W[4] + 6149 * W[5]) 10000)

/-- R147: with finite coefficients, selector 255 gives the integer nearest to the exact sum of f32(COEF[i]) · W[i], a half
away from zero. -/
def Obligations.UserFilterRoundsTheExactSum : Prop :=
  ∀ (coef : Window 32) (W : Lookback), (∀ i : Fin 16, ¬ NotFinite coef[i]) →
    ∃ y, filterExact coef 255 W = .ok y ∧ |(y : ℚ) - userSumRat coef W| ≤ 1 / 2 ∧
      (|(y : ℚ) - userSumRat coef W| = 1 / 2 → |userSumRat coef W| < |(y : ℚ)|)

/-- R134: a code 9 to 254 is never given a value. -/
def Obligations.OtherCodesHaveNoFilter : Prop :=
  ∀ (coef : Window 32) (code : BitVec 8) (W : Lookback), ¬ SelectorCode code →
    filterExact coef code W = .error .selectorUndefined

/-- R130, R137: Filter answers its exact value clamped to 64 bits, sets SAT_INT exactly if the clamp changed it, and writes
nothing else. -/
def Obligations.FilterClampsAndFlags : Prop :=
  ∀ (s : State) (code : BitVec 8) (W : Lookback) (y : Int), filterExact s.coef code W = .ok y →
    s.filter code W = .ok (clamp64 y,
      if y < -2 ^ 63 ∨ 2 ^ 63 - 1 < y then { s with status := s.status ||| 0x100#32 } else s)

/-- R152: the bounds of the fixed selectors over a window whose values are at most M in magnitude, and the alternating
window's nine values. Selectors 3, 5, 6 and 7 are taken at their default readings (log entry 5). -/
def Obligations.FixedSelectorsAreBounded : Prop :=
  (∀ (coef : Window 32) (W : Lookback) (M : Int), M ≤ 65535 → (∀ k : Fin 16, |W[k]| ≤ M) →
    ∀ (code : BitVec 8) (y : Int), code.toNat ≤ 8 → filterExact coef code W = .ok y →
      |y| ≤ (if code = 0 ∨ code = 1 then M
        else if code = 2 ∨ code = 5 ∨ code = 7 then 2 * M
        else if code = 3 ∨ code = 6 then 3 * M
        else if code = 4 then ⌈(83619 * M : ℚ) / 10000⌉
        else ⌈(93619 * M : ℚ) / 10000⌉)) ∧
  (∀ coef : Window 32,
    let W : Lookback := Vector.ofFn fun k => if 5 < k.val then 0 else if k.val % 2 = 0 then 65535 else -65535
    filterExact coef 0 W = .ok 0 ∧ filterExact coef 1 W = .ok 65535 ∧ filterExact coef 2 W = .ok 131070 ∧
    filterExact coef 3 W = .ok 196605 ∧ filterExact coef 4 W = .ok 547997 ∧ filterExact coef 5 W = .ok (-131070) ∧
    filterExact coef 6 W = .ok (-65535) ∧ filterExact coef 7 W = .ok 131070 ∧
    filterExact coef 8 W = .ok (-613532))

/-- R137, R152: over a legal RWIN no selector but 255 sets SAT_INT. -/
def Obligations.DitherFilterNeverClamps : Prop :=
  ∀ (s : State) (code : BitVec 8), s.RwinInRange → code.toNat ≤ 8 →
    ∃ y, s.filter code (signedView s.rwin) = .ok (y, s) ∧ filterExact s.coef code (signedView s.rwin) = .ok y

/-! ## The quantizer -/

/-- R160: the value of every binary32 pattern. A finite n of the model stands for n · 2^(-149). -/
def Obligations.SampleDecodingIsExact : Prop :=
  ∀ b : Word,
    (IsNan b → f32 b = .nan) ∧
    (IsInf b → f32 b = .inf (b.getLsbD 31)) ∧
    (¬ NotFinite b → ∃ n : Int, f32 b = .finite n ∧ (n : ℚ) / 2 ^ 149 = f32Value b) ∧
    f32Value 0x00000000#32 = 0 ∧ f32Value 0x80000000#32 = 0

/-- R162, R164: the scaled sample is the floor of s · 2^(15+f), an infinity for an infinite sample and 0 for a NaN. -/
def Obligations.ScalingIsExactThenFloors : Prop :=
  ∀ (f : Nat) (b : Word),
    (¬ NotFinite b → scaleSample f b = .finite ⌊f32Value b * 2 ^ (15 + f)⌋) ∧
    (IsNan b → scaleSample f b = .finite 0) ∧
    (IsInf b → scaleSample f b = if b.getLsbD 31 then .negInf else .posInf)

/-- R161: QUANT in a legal state. The sample is scaled, the error-feedback filter reads EWIN before the push, the sum is
clamped to 64 bits, RWIN is filled and then filtered, the biased sum is shifted, the residual of the unsaturated
candidate is pushed, and the output is saturated to 16 bits; each flag is set exactly by its event. CFG, COEF and the
input do not change. -/
def Obligations.QuantRunsTheSevenSteps : Prop :=
  ∀ (s : State) (b : Word), s.Legal →
    let f := (s.cfg.extractLsb' 20 4).toNat + 1
    let filled := fillValue (s.cfg.getLsbD 16) s.lfsr
    let rwin := push s.rwin (BitVec.ofInt 17 filled.1)
    ∃ e0 D0 : Int,
      filterExact s.coef (s.cfg.extractLsb' 0 8) (signedView s.ewin) = .ok e0 ∧
      filterExact s.coef (s.cfg.extractLsb' 8 8) (signedView rwin) = .ok D0 ∧
      let e := clamp64 e0
      let D := clamp64 D0
      let x := if IsNan b then 0 else ⌊f32Value b * 2 ^ (15 + f)⌋
      let P := if IsInf b then (if b.getLsbD 31 then -2 ^ 63 else 2 ^ 63 - 1) else clamp64 (x + e)
      let c := (P + D + 2 ^ (f - 1)) / 2 ^ f
      let r := P - c * 2 ^ f
      exec (.quant 0 b) s = .next
        { s with
          lfsr := filled.2
          rwin := rwin
          ewin := push s.ewin (BitVec.ofInt 64 (clamp64 r))
          status := s.status ||| (if IsNan b then 0x080#32 else 0) |||
            (if e0 ≠ e ∨ D0 ≠ D ∨ r ≠ clamp64 r then 0x100#32 else 0) |||
            (if IsInf b ∨ x + e ≠ clamp64 (x + e) then 0x040#32 else 0) |||
            (if c ≠ clamp16 c then 0x020#32 else 0)
          responses := s.responses ++ [.ok [BitVec.ofInt 32 (clamp16 c)]] }

/-- R168: QUANT's encoding, and its only rejection; it is not rejected in any CFG, FAST = 1 included. -/
def Obligations.QuantRejectsReservedBitsAlone : Prop :=
  (∀ b : Word, encode (.quant 0 b) = [0x40000000#32, b]) ∧
  (∀ (s : State) (rsv : BitVec 28) (b : Word), rsv ≠ 0 → exec (.quant rsv b) s = .next (rejectedWith 2 s)) ∧
  (∀ (s : State) (b : Word), s.Legal → ∃ t w, exec (.quant 0 b) s = .next t ∧
    t.responses = s.responses ++ [.ok [w]] ∧ t.cfg = s.cfg ∧ t.coef = s.coef ∧ t.input = s.input ∧
    t.status &&& 0xFFFFFE1F#32 = s.status &&& 0xFFFFFE1F#32)

/-- R169: with DSEL = 0 and ESEL = 0 a finite sample gives sat16(floor(s · 2^15 + 1/2)), whatever fixbits and the rest of
the state are, and a NaN gives 0. -/
def Obligations.WithoutDitherOrFeedbackQuantRounds : Prop :=
  ∀ (s : State) (b : Word), s.Legal → s.dsel = 0 → s.esel = 0 →
    (¬ NotFinite b → ∃ t, exec (.quant 0 b) s = .next t ∧
      t.responses = s.responses ++ [.ok [BitVec.ofInt 32 (clamp16 ⌊f32Value b * 2 ^ 15 + 1 / 2⌋)]]) ∧
    (IsNan b → ∃ t, exec (.quant 0 b) s = .next t ∧ t.responses = s.responses ++ [.ok [0]])

/-- R166: the residual, before its clamp, lies in [-D - 2^(f-1), -D + 2^(f-1)), for every clamped sum P, dither value D and
fixbits. -/
def Obligations.ResidualIsBoundedByTheDither : Prop :=
  ∀ (f : Nat) (P D : Int), 1 ≤ f →
    -D - 2 ^ (f - 1) ≤ residual f P D ∧ residual f P D < -D + 2 ^ (f - 1) ∧
      (D = 0 → -2 ^ (f - 1) ≤ residual f P D ∧ residual f P D < 2 ^ (f - 1))

/-- R166, R152: after a sample with a fixed dither selector, the value stored in EWIN[0] lies in the interval
[-D - 2^(f-1), -D + 2^(f-1)) that R166 gives the unclamped residual, D being the dither value that the new RWIN gives. Only
the bound is said; the value itself is `QuantRunsTheSevenSteps`'s. Selectors 3, 5, 6 and 7 are taken at their default
readings (log entry 5). -/
def Obligations.StoredResidualIsBounded : Prop :=
  ∀ (s : State) (b : Word), s.Legal → s.dsel.toNat ≤ 8 → ∃ t D, exec (.quant 0 b) s = .next t ∧
    filterExact t.coef t.dsel (signedView t.rwin) = .ok D ∧
    -D - 2 ^ (s.fixbits - 1) ≤ t.ewin[0].toInt ∧ t.ewin[0].toInt < -D + 2 ^ (s.fixbits - 1)

/-- R173: a sample of +1.5 at fixbits 16 with no error feedback and a dither value of at most 65535 in magnitude answers
32767 and sets SAT_OUT, with the residual 65536, 0 or -65536 as the dither value decides; with the reset seed it is 0. -/
def Obligations.OnePointFiveSaturates : Prop :=
  (∀ (s : State) (D : Int), s.Legal → s.esel = 0 → s.fixbits = 16 →
    filterExact s.coef s.dsel (signedView (push s.rwin (BitVec.ofInt 17 (fillValue s.decor s.lfsr).1))) = .ok D →
    |D| ≤ 65535 →
    ∃ t, exec (.quant 0 0x3FC00000#32) s = .next t ∧ t.responses = s.responses ++ [.ok [32767]] ∧
      t.status.getLsbD 5 = true ∧
      t.ewin[0].toInt = if D < -32768 then 65536 else if D < 32768 then 0 else -65536) ∧
  (∃ t, exec (.quant 0 0x3FC00000#32) State.reset = .next t ∧ t.rwin[0].toInt = 9019 ∧ t.ewin[0].toInt = 0)

/-- R174: with ESEL = 1 and no dither the feedback loop closes. From a stored residual of at most half an output step, over
any number of finite samples of magnitude at most 1/2, the sum of the scaled samples and the reconstructed sum of the
outputs differ by exactly the last residual less the first, and the last residual is again at most half an output step. -/
def Obligations.ErrorFeedbackConservesTheSignal : Prop :=
  ∀ (s : State) (samples : List Word), s.Legal → s.esel = 1 → s.dsel = 0 →
    -2 ^ (s.fixbits - 1) ≤ s.ewin[0].toInt → s.ewin[0].toInt < 2 ^ (s.fixbits - 1) →
    (∀ b ∈ samples, ¬ NotFinite b ∧ |f32Value b| ≤ 1 / 2) →
    ∃ t new, execAll (convert false samples) s = .next t ∧ t.responses = s.responses ++ new ∧
      (samples.map fun b => ⌊f32Value b * 2 ^ (15 + s.fixbits)⌋).sum -
          2 ^ s.fixbits * ((outputSamples new).map BitVec.toInt).sum = t.ewin[0].toInt - s.ewin[0].toInt ∧
      -2 ^ (s.fixbits - 1) ≤ t.ewin[0].toInt ∧ t.ewin[0].toInt < 2 ^ (s.fixbits - 1)

/-- R25: after n samples from a legal state, for k < n the elements RWIN[k] and EWIN[k] are what the sample k places back
left as the most recent, and for k >= n they are what RWIN[k-n] and EWIN[k-n] were, which is 0 where the windows began
zero-filled. -/
def Obligations.WindowsHoldTheLastSixteen : Prop :=
  ∀ (s : State) (samples : List Word), s.Legal → ∃ t, execAll (convert false samples) s = .next t ∧
    ∀ k : Fin 16,
      (k.val < samples.length → ∃ u, execAll (convert false (samples.take (samples.length - k.val))) s = .next u ∧
        t.rwin[k] = u.rwin[0] ∧ t.ewin[k] = u.ewin[0]) ∧
      (samples.length ≤ k.val →
        t.rwin[k] = s.rwin[k.val - samples.length]! ∧ t.ewin[k] = s.ewin[k.val - samples.length]! ∧
        (s.rwin = zeros 17 → s.ewin = zeros 64 → t.rwin[k] = 0 ∧ t.ewin[k] = 0))

/-! ## The fast path -/

/-- R171: QUANT4 with FAST = 1 leaves the state that four QUANTs leave, and answers their four outputs packed two a word,
the earlier lane low; with FAST = 0 it is rejected with NOT_FAST, and a reserved bit is checked first. -/
def Obligations.Quant4IsFourQuants : Prop :=
  (∀ b0 b1 b2 b3 : Word, encode (.quant4 0 b0 b1 b2 b3) = [0x50000000#32, b0, b1, b2, b3]) ∧
  (∀ (s : State) (rsv : BitVec 28) (b0 b1 b2 b3 : Word),
    rsv ≠ 0 → exec (.quant4 rsv b0 b1 b2 b3) s = .next (rejectedWith 2 s)) ∧
  (∀ (s : State) (b0 b1 b2 b3 : Word), s.cfg.getLsbD 27 = false →
    exec (.quant4 0 b0 b1 b2 b3) s = .next (rejectedWith 7 s)) ∧
  (∀ (s : State) (b0 b1 b2 b3 : Word), s.Legal → s.cfg.getLsbD 27 = true →
    ∃ (t : State) (o0 o1 o2 o3 : BitVec 16),
      execAll [.quant 0 b0, .quant 0 b1, .quant 0 b2, .quant 0 b3] s = .next
        { t with responses := s.responses ++ [.ok [BitVec.ofInt 32 o0.toInt], .ok [BitVec.ofInt 32 o1.toInt],
          .ok [BitVec.ofInt 32 o2.toInt], .ok [BitVec.ofInt 32 o3.toInt]] } ∧
      exec (.quant4 0 b0 b1 b2 b3) s = .next
        { t with responses := s.responses ++ [.ok [BitVec.ofNat 32 (o1.toNat * 2 ^ 16 + o0.toNat),
          BitVec.ofNat 32 (o3.toNat * 2 ^ 16 + o2.toNat)]] })

/-- R170: CFG.FAST changes no value that a quantization computes. -/
def Obligations.FastChangesNoValue : Prop :=
  ∀ (s : State) (b : Word), s.Legal →
    ∃ t, exec (.quant 0 b) s = .next t ∧
      exec (.quant 0 b) { s with cfg := s.cfg ^^^ 0x08000000#32 } = .next { t with cfg := t.cfg ^^^ 0x08000000#32 }

/-- R172: for any number of samples, CONVERT's fast expansion (QUANT4 groups, then QUANT for the remainder) leaves the same
state and gives the same output samples as one QUANT a sample. -/
def Obligations.FastConvertEqualsScalarConvert : Prop :=
  ∀ (s : State) (samples : List Word), s.Legal → s.cfg.getLsbD 27 = true →
    ∃ (t : State) (fast scalar : List Response),
      execAll (convert true samples) s = .next { t with responses := s.responses ++ fast } ∧
      execAll (convert false samples) s = .next { t with responses := s.responses ++ scalar } ∧
      outputSamples fast = outputSamples scalar ∧ (outputSamples scalar).length = samples.length

/-- R255: where a stream is cut into blocks is not seen. Converting two blocks one after the other leaves the state and
gives the output samples of converting them as one, on the fast path too, whatever the length of the first. -/
def Obligations.BlockBoundariesAreNotSeen : Prop :=
  ∀ (s : State) (xs ys : List Word) (fast : Bool), s.Legal → (fast = true → s.cfg.getLsbD 27 = true) →
    ∃ (t : State) (whole blocks : List Response),
      execAll (convert fast (xs ++ ys)) s = .next { t with responses := s.responses ++ whole } ∧
      execAll (convert fast xs ++ convert fast ys) s = .next { t with responses := s.responses ++ blocks } ∧
      outputSamples whole = outputSamples blocks

/-- R149: with the coefficients 1.0, 0, ..., selector 255 is selector 1 on every window, and a session run with ESEL = 255
gives the responses of ESEL = 1 and leaves the same state but for CFG.ESEL. -/
def Obligations.UnitUserFilterIsSelectorOne : Prop :=
  (∀ (W : Lookback), filterExact unitCoef 255 W = filterExact unitCoef 1 W) ∧
  (∀ (s : State) (samples : List Word), s.Legal → s.coef = unitCoef → s.esel = 255 →
    ∃ t, execAll (convert false samples) s = .next t ∧
      execAll (convert false samples) { s with cfg := withEsel 1 s.cfg } = .next { t with cfg := withEsel 1 t.cfg })

/-! ## The assembler -/

/-- R84: the worked encodings. -/
def Obligations.WorkedEncodingsAssemble : Prop :=
  assembleLine "CFG" = some [0x20F00200#32] ∧
  assembleLine "CFG fast=1" = some [0x28F00200#32] ∧
  assembleLine "CFG dsel=NONE, esel=0" = some [0x20F00000#32] ∧
  assembleLine "CFG dsel=NONE, esel=1" = some [0x20F00001#32] ∧
  assembleLine "CFG dsel=TRIANGULAR, decor=1, esel=4, fixbits=8" = some [0x20710204#32] ∧
  assembleLine "WCOEF 0, 0x3F800000" = some [0x30000000#32, 0x3F800000#32] ∧
  assembleLine "RDREG 0x01" = some [0x60000001#32]

/-- R81, R86: SETUP writes the 9-bit dither_mode in bits 16:8 of its one CFG word, shaping in ESEL, fixbits and FAST in
theirs. -/
def Obligations.SetupPlacesTheDitherMode : Prop :=
  ∀ (fixm1 : BitVec 4) (dither : BitVec 9) (shaping : BitVec 8) (fast : BitVec 1), ∃ cw : Word,
    (AsmLine.setup fixm1 dither shaping fast).words = [cw] ∧ cw.extractLsb' 8 9 = dither ∧
    cw.extractLsb' 0 8 = shaping ∧ cw.extractLsb' 20 4 = fixm1 ∧ cw.extractLsb' 27 1 = fast ∧
    cw.extractLsb' 28 4 = 2 ∧ cw &&& 0x070E0000#32 = 0

/-- R87: LOADCOEF with at most sixteen values of finite pattern writes COEF[0], COEF[1], ... in order, keeps the rest of
COEF, and changes nothing else but the responses. -/
def Obligations.LoadCoefWritesTheFirstCoefficients : Prop :=
  ∀ (s : State) (xs : List Decimal), xs.length ≤ 16 → (∀ x ∈ xs, ¬ NotFinite x.bits) →
    ∃ t, execAll (loadCoef xs) s = .next t ∧
      (∀ k : Fin 16, t.coef[k] = (xs[k.val]?.map Decimal.bits).getD s.coef[k]) ∧
      t = { s with coef := t.coef, responses := s.responses ++ List.replicate xs.length (.ok []) }

/-- R85: `f32Nearest`, the rounding that the assembler's decimals go through, gives a finite pattern back from its exact
value, written as a multiple of 2^(-149). The pattern -0.0 is left out: its value is the real 0, whose pattern +0.0 is the
model's choice (log entry 9). -/
def Obligations.F32NearestGivesAFinitePatternBack : Prop :=
  ∀ b : Word, ¬ NotFinite b → b ≠ 0x80000000#32 → f32Nearest (f32Units b) (2 ^ 149) = b
end

