-- ==== Sys2Proof/Laws/Arith.lean ====
section
/-! SUPPORT. The conversions of R9 on integers: saturation, the arithmetic shift, and what stays inside a width. -/

namespace Sys2Proof.Machine

/-- A value inside the range is unchanged by saturation. -/
theorem sat_of_mem {v lo hi : Int} (h₁ : lo ≤ v) (h₂ : v ≤ hi) : sat v lo hi = v := by
  unfold sat; split
  · omega
  · split <;> omega

/-- A saturated value lies in the range. -/
theorem sat_mem {v lo hi : Int} (h : lo ≤ hi) : lo ≤ sat v lo hi ∧ sat v lo hi ≤ hi := by
  unfold sat; split
  · omega
  · split <;> omega

theorem sat64_mem (v : Int) : -2 ^ 63 ≤ sat64 v ∧ sat64 v ≤ 2 ^ 63 - 1 :=
  sat_mem (by decide)

theorem sat64_of_mem {v : Int} (h₁ : -2 ^ 63 ≤ v) (h₂ : v ≤ 2 ^ 63 - 1) : sat64 v = v :=
  sat_of_mem h₁ h₂

theorem sat16_mem (v : Int) : -32768 ≤ sat16 v ∧ sat16 v ≤ 32767 :=
  sat_mem (by decide)

theorem sat16_of_mem {v : Int} (h₁ : -32768 ≤ v) (h₂ : v ≤ 32767) : sat16 v = v :=
  sat_of_mem h₁ h₂

/-- A 64-bit element holds a saturated value exactly. -/
theorem toInt_ofInt_sat64 (v : Int) : (BitVec.ofInt 64 (sat64 v)).toInt = sat64 v := by
  have h := sat64_mem v
  rw [BitVec.toInt_ofInt, Int.bmod_eq_of_le] <;> omega

/-- A 16-bit sample holds a saturated value exactly. -/
theorem toInt_ofInt_sat16 (v : Int) : (BitVec.ofInt 16 (sat16 v)).toInt = sat16 v := by
  have h := sat16_mem v
  rw [BitVec.toInt_ofInt, Int.bmod_eq_of_le] <;> omega

/-- The arithmetic shift is the floor of the division by a power of two. -/
theorem asr_bounds (v : Int) (n : Nat) : asr v n * 2 ^ n ≤ v ∧ v < (asr v n + 1) * 2 ^ n := by
  have hp : (0 : Int) < 2 ^ n := by positivity
  refine ⟨Int.ediv_mul_le v hp.ne', ?_⟩
  simpa [asr] using Int.lt_ediv_add_one_mul_self v hp

/-- Every element of a 64-bit window lies in the 64-bit range. -/
theorem toInt64_mem (x : BitVec 64) : -2 ^ 63 ≤ x.toInt ∧ x.toInt ≤ 2 ^ 63 - 1 := by
  have h₁ := BitVec.le_toInt x
  have h₂ := BitVec.toInt_lt (x := x)
  omega

end Sys2Proof.Machine
end

