-- ==== Sys2Proof/Laws/State.lean ====
section
/-! SUPPORT. One lemma for each field of State after each of its updates, and for each view of CFG after an update that
leaves CFG alone. -/

namespace Sys2Proof.Machine

variable (s : State)

@[simp] theorem State.raise_lfsr (bits : Word) (h : Bool) : (s.raise bits h).lfsr = s.lfsr := rfl
@[simp] theorem State.raise_rwin (bits : Word) (h : Bool) : (s.raise bits h).rwin = s.rwin := rfl
@[simp] theorem State.raise_ewin (bits : Word) (h : Bool) : (s.raise bits h).ewin = s.ewin := rfl
@[simp] theorem State.raise_coef (bits : Word) (h : Bool) : (s.raise bits h).coef = s.coef := rfl
@[simp] theorem State.raise_cfg (bits : Word) (h : Bool) : (s.raise bits h).cfg = s.cfg := rfl
@[simp] theorem State.raise_status (bits : Word) (h : Bool) : (s.raise bits h).status =
    if h then s.status ||| bits else s.status := rfl
@[simp] theorem State.raise_input (bits : Word) (h : Bool) : (s.raise bits h).input = s.input := rfl
@[simp] theorem State.raise_responses (bits : Word) (h : Bool) : (s.raise bits h).responses = s.responses := rfl

@[simp] theorem State.clearStatus_lfsr : (s.clearStatus).lfsr = s.lfsr := rfl
@[simp] theorem State.clearStatus_rwin : (s.clearStatus).rwin = s.rwin := rfl
@[simp] theorem State.clearStatus_ewin : (s.clearStatus).ewin = s.ewin := rfl
@[simp] theorem State.clearStatus_coef : (s.clearStatus).coef = s.coef := rfl
@[simp] theorem State.clearStatus_cfg : (s.clearStatus).cfg = s.cfg := rfl
@[simp] theorem State.clearStatus_status : (s.clearStatus).status = 0 := rfl
@[simp] theorem State.clearStatus_input : (s.clearStatus).input = s.input := rfl
@[simp] theorem State.clearStatus_responses : (s.clearStatus).responses = s.responses := rfl

@[simp] theorem State.respond_lfsr (data : List Word) : (s.respond data).lfsr = s.lfsr := rfl
@[simp] theorem State.respond_rwin (data : List Word) : (s.respond data).rwin = s.rwin := rfl
@[simp] theorem State.respond_ewin (data : List Word) : (s.respond data).ewin = s.ewin := rfl
@[simp] theorem State.respond_coef (data : List Word) : (s.respond data).coef = s.coef := rfl
@[simp] theorem State.respond_cfg (data : List Word) : (s.respond data).cfg = s.cfg := rfl
@[simp] theorem State.respond_status (data : List Word) : (s.respond data).status = s.status := rfl
@[simp] theorem State.respond_input (data : List Word) : (s.respond data).input = s.input := rfl
@[simp] theorem State.respond_responses (data : List Word) : (s.respond data).responses =
    s.responses ++ [.ok data] := rfl

@[simp] theorem State.reject_lfsr (code : RejectCode) : (s.reject code).lfsr = s.lfsr := rfl
@[simp] theorem State.reject_rwin (code : RejectCode) : (s.reject code).rwin = s.rwin := rfl
@[simp] theorem State.reject_ewin (code : RejectCode) : (s.reject code).ewin = s.ewin := rfl
@[simp] theorem State.reject_coef (code : RejectCode) : (s.reject code).coef = s.coef := rfl
@[simp] theorem State.reject_cfg (code : RejectCode) : (s.reject code).cfg = s.cfg := rfl
@[simp] theorem State.reject_status (code : RejectCode) : (s.reject code).status = rejectedStatus code s.status := rfl
@[simp] theorem State.reject_input (code : RejectCode) : (s.reject code).input = s.input := rfl
@[simp] theorem State.reject_responses (code : RejectCode) : (s.reject code).responses = s.responses ++ [.rej] := rfl

@[simp] theorem State.withInput_lfsr (rest : List PortEvent) : (s.withInput rest).lfsr = s.lfsr := rfl
@[simp] theorem State.withInput_rwin (rest : List PortEvent) : (s.withInput rest).rwin = s.rwin := rfl
@[simp] theorem State.withInput_ewin (rest : List PortEvent) : (s.withInput rest).ewin = s.ewin := rfl
@[simp] theorem State.withInput_coef (rest : List PortEvent) : (s.withInput rest).coef = s.coef := rfl
@[simp] theorem State.withInput_cfg (rest : List PortEvent) : (s.withInput rest).cfg = s.cfg := rfl
@[simp] theorem State.withInput_status (rest : List PortEvent) : (s.withInput rest).status = s.status := rfl
@[simp] theorem State.withInput_input (rest : List PortEvent) : (s.withInput rest).input = rest := rfl
@[simp] theorem State.withInput_responses (rest : List PortEvent) : (s.withInput rest).responses = s.responses := rfl

@[simp] theorem State.storeFill_lfsr (v : Int) (L : Word) : (s.storeFill v L).lfsr = L := rfl
@[simp] theorem State.storeFill_rwin (v : Int) (L : Word) : (s.storeFill v L).rwin =
    push s.rwin (BitVec.ofInt 17 v) := rfl
@[simp] theorem State.storeFill_ewin (v : Int) (L : Word) : (s.storeFill v L).ewin = s.ewin := rfl
@[simp] theorem State.storeFill_coef (v : Int) (L : Word) : (s.storeFill v L).coef = s.coef := rfl
@[simp] theorem State.storeFill_cfg (v : Int) (L : Word) : (s.storeFill v L).cfg = s.cfg := rfl
@[simp] theorem State.storeFill_status (v : Int) (L : Word) : (s.storeFill v L).status = s.status := rfl
@[simp] theorem State.storeFill_input (v : Int) (L : Word) : (s.storeFill v L).input = s.input := rfl
@[simp] theorem State.storeFill_responses (v : Int) (L : Word) : (s.storeFill v L).responses = s.responses := rfl

@[simp] theorem State.storeResidual_lfsr (r : Int) : (s.storeResidual r).lfsr = s.lfsr := rfl
@[simp] theorem State.storeResidual_rwin (r : Int) : (s.storeResidual r).rwin = s.rwin := rfl
@[simp] theorem State.storeResidual_ewin (r : Int) : (s.storeResidual r).ewin =
    push s.ewin (BitVec.ofInt 64 (sat64 r)) := rfl
@[simp] theorem State.storeResidual_coef (r : Int) : (s.storeResidual r).coef = s.coef := rfl
@[simp] theorem State.storeResidual_cfg (r : Int) : (s.storeResidual r).cfg = s.cfg := rfl
@[simp] theorem State.storeResidual_status (r : Int) : (s.storeResidual r).status =
    if r != sat64 r then s.status ||| satIntBit else s.status := rfl
@[simp] theorem State.storeResidual_input (r : Int) : (s.storeResidual r).input = s.input := rfl
@[simp] theorem State.storeResidual_responses (r : Int) : (s.storeResidual r).responses = s.responses := rfl

@[simp] theorem State.startSession_lfsr (seed : Word) : (s.startSession seed).lfsr =
    if seed = 0 then Config.resetSeed else seed := rfl
@[simp] theorem State.startSession_rwin (seed : Word) : (s.startSession seed).rwin = zeroWindow 17 := rfl
@[simp] theorem State.startSession_ewin (seed : Word) : (s.startSession seed).ewin = zeroWindow 64 := rfl
@[simp] theorem State.startSession_coef (seed : Word) : (s.startSession seed).coef = s.coef := rfl
@[simp] theorem State.startSession_cfg (seed : Word) : (s.startSession seed).cfg = s.cfg := rfl
@[simp] theorem State.startSession_status (seed : Word) : (s.startSession seed).status = s.status := rfl
@[simp] theorem State.startSession_input (seed : Word) : (s.startSession seed).input = s.input := rfl
@[simp] theorem State.startSession_responses (seed : Word) : (s.startSession seed).responses = s.responses := rfl

@[simp] theorem State.writeCfg_lfsr (low : BitVec 28) : (s.writeCfg low).lfsr = s.lfsr := rfl
@[simp] theorem State.writeCfg_rwin (low : BitVec 28) : (s.writeCfg low).rwin = s.rwin := rfl
@[simp] theorem State.writeCfg_ewin (low : BitVec 28) : (s.writeCfg low).ewin = s.ewin := rfl
@[simp] theorem State.writeCfg_coef (low : BitVec 28) : (s.writeCfg low).coef = s.coef := rfl
@[simp] theorem State.writeCfg_cfg (low : BitVec 28) : (s.writeCfg low).cfg = low.setWidth 32 := rfl
@[simp] theorem State.writeCfg_status (low : BitVec 28) : (s.writeCfg low).status = s.status := rfl
@[simp] theorem State.writeCfg_input (low : BitVec 28) : (s.writeCfg low).input = s.input := rfl
@[simp] theorem State.writeCfg_responses (low : BitVec 28) : (s.writeCfg low).responses = s.responses := rfl

@[simp] theorem State.writeCoef_lfsr (idx : BitVec 4) (bits : Word) : (s.writeCoef idx bits).lfsr = s.lfsr := rfl
@[simp] theorem State.writeCoef_rwin (idx : BitVec 4) (bits : Word) : (s.writeCoef idx bits).rwin = s.rwin := rfl
@[simp] theorem State.writeCoef_ewin (idx : BitVec 4) (bits : Word) : (s.writeCoef idx bits).ewin = s.ewin := rfl
@[simp] theorem State.writeCoef_coef (idx : BitVec 4) (bits : Word) : (s.writeCoef idx bits).coef =
    s.coef.set idx.toNat bits idx.isLt := rfl
@[simp] theorem State.writeCoef_cfg (idx : BitVec 4) (bits : Word) : (s.writeCoef idx bits).cfg = s.cfg := rfl
@[simp] theorem State.writeCoef_status (idx : BitVec 4) (bits : Word) : (s.writeCoef idx bits).status =
    s.status := rfl
@[simp] theorem State.writeCoef_input (idx : BitVec 4) (bits : Word) : (s.writeCoef idx bits).input = s.input := rfl
@[simp] theorem State.writeCoef_responses (idx : BitVec 4) (bits : Word) : (s.writeCoef idx bits).responses =
    s.responses := rfl

@[simp] theorem State.hostReset_lfsr (rest : List PortEvent) : (s.hostReset rest).lfsr = Config.resetSeed := rfl
@[simp] theorem State.hostReset_rwin (rest : List PortEvent) : (s.hostReset rest).rwin = zeroWindow 17 := rfl
@[simp] theorem State.hostReset_ewin (rest : List PortEvent) : (s.hostReset rest).ewin = zeroWindow 64 := rfl
@[simp] theorem State.hostReset_coef (rest : List PortEvent) : (s.hostReset rest).coef = Config.resetCoef := rfl
@[simp] theorem State.hostReset_cfg (rest : List PortEvent) : (s.hostReset rest).cfg = Config.resetCfg := rfl
@[simp] theorem State.hostReset_status (rest : List PortEvent) : (s.hostReset rest).status = 0 := rfl
@[simp] theorem State.hostReset_input (rest : List PortEvent) : (s.hostReset rest).input = rest := rfl
@[simp] theorem State.hostReset_responses (rest : List PortEvent) : (s.hostReset rest).responses = s.responses := rfl

@[simp] theorem State.withFetchWord_lfsr (nbits w : Nat) : (s.withFetchWord nbits w).lfsr = s.lfsr := rfl
@[simp] theorem State.withFetchWord_rwin (nbits w : Nat) : (s.withFetchWord nbits w).rwin = s.rwin := rfl
@[simp] theorem State.withFetchWord_ewin (nbits w : Nat) : (s.withFetchWord nbits w).ewin = s.ewin := rfl
@[simp] theorem State.withFetchWord_coef (nbits w : Nat) : (s.withFetchWord nbits w).coef = s.coef := rfl
@[simp] theorem State.withFetchWord_cfg (nbits w : Nat) : (s.withFetchWord nbits w).cfg = s.cfg := rfl
@[simp] theorem State.withFetchWord_status (nbits w : Nat) : (s.withFetchWord nbits w).status = s.status := rfl
@[simp] theorem State.withFetchWord_input (nbits w : Nat) : (s.withFetchWord nbits w).input =
    (tableWords nbits w).map .word ++ s.input := rfl
@[simp] theorem State.withFetchWord_responses (nbits w : Nat) : (s.withFetchWord nbits w).responses =
    s.responses := rfl

@[simp] theorem State.raise_esel (bits : Word) (h : Bool) : (s.raise bits h).esel = s.esel := rfl
@[simp] theorem State.raise_dsel (bits : Word) (h : Bool) : (s.raise bits h).dsel = s.dsel := rfl
@[simp] theorem State.raise_decor (bits : Word) (h : Bool) : (s.raise bits h).decor = s.decor := rfl
@[simp] theorem State.raise_fixbits (bits : Word) (h : Bool) : (s.raise bits h).fixbits = s.fixbits := rfl
@[simp] theorem State.raise_fast (bits : Word) (h : Bool) : (s.raise bits h).fast = s.fast := rfl

@[simp] theorem State.respond_esel (data : List Word) : (s.respond data).esel = s.esel := rfl
@[simp] theorem State.respond_dsel (data : List Word) : (s.respond data).dsel = s.dsel := rfl
@[simp] theorem State.respond_decor (data : List Word) : (s.respond data).decor = s.decor := rfl
@[simp] theorem State.respond_fixbits (data : List Word) : (s.respond data).fixbits = s.fixbits := rfl
@[simp] theorem State.respond_fast (data : List Word) : (s.respond data).fast = s.fast := rfl

@[simp] theorem State.reject_esel (code : RejectCode) : (s.reject code).esel = s.esel := rfl
@[simp] theorem State.reject_dsel (code : RejectCode) : (s.reject code).dsel = s.dsel := rfl
@[simp] theorem State.reject_decor (code : RejectCode) : (s.reject code).decor = s.decor := rfl
@[simp] theorem State.reject_fixbits (code : RejectCode) : (s.reject code).fixbits = s.fixbits := rfl
@[simp] theorem State.reject_fast (code : RejectCode) : (s.reject code).fast = s.fast := rfl

@[simp] theorem State.storeFill_esel (v : Int) (L : Word) : (s.storeFill v L).esel = s.esel := rfl
@[simp] theorem State.storeFill_dsel (v : Int) (L : Word) : (s.storeFill v L).dsel = s.dsel := rfl
@[simp] theorem State.storeFill_decor (v : Int) (L : Word) : (s.storeFill v L).decor = s.decor := rfl
@[simp] theorem State.storeFill_fixbits (v : Int) (L : Word) : (s.storeFill v L).fixbits = s.fixbits := rfl
@[simp] theorem State.storeFill_fast (v : Int) (L : Word) : (s.storeFill v L).fast = s.fast := rfl

@[simp] theorem State.storeResidual_esel (r : Int) : (s.storeResidual r).esel = s.esel := rfl
@[simp] theorem State.storeResidual_dsel (r : Int) : (s.storeResidual r).dsel = s.dsel := rfl
@[simp] theorem State.storeResidual_decor (r : Int) : (s.storeResidual r).decor = s.decor := rfl
@[simp] theorem State.storeResidual_fixbits (r : Int) : (s.storeResidual r).fixbits = s.fixbits := rfl
@[simp] theorem State.storeResidual_fast (r : Int) : (s.storeResidual r).fast = s.fast := rfl

end Sys2Proof.Machine
end

