-- ==== Sys2Proof/Laws/Filters.lean ====
section
/-! SUPPORT. When a filter has a value, and everything `Filter` can do to the state (R130, R134, R137). -/

namespace Sys2Proof.Machine

/-- A legal selector over finite coefficients has a value (R134, R147). -/
theorem filterExact_ok {coef : Window 32} {code : BitVec 8} (W : Lookback) (hc : CoefFinite coef)
    (hl : selectorLegal code = true) : ∃ y, filterExact coef code W = .ok y := by
  unfold selectorLegal at hl
  unfold filterExact
  cases hsel : Selector.ofCode code with
  | none => simp [hsel] at hl
  | some sel =>
    cases sel with
    | user => exact ⟨_, if_pos hc⟩
    | _ => exact ⟨_, rfl⟩

/-- Everything `Filter` can do (R130, R137): it answers the clamped value and sets SAT_INT if the clamp changed it. -/
theorem filter_eq_ok {code : BitVec 8} {W : Lookback} {s t : State} {z : Int} :
    s.filter code W = .ok (z, t) ↔
      ∃ y, filterExact s.coef code W = .ok y ∧ z = sat64 y ∧ t = s.raise satIntBit (y != sat64 y) := by
  cases h : filterExact s.coef code W with
  | error f => simp [State.filter, h, bind, Except.bind]
  | ok y => simp [State.filter, h, bind, Except.bind, pure, Except.pure, eq_comm]

/-- RWIN is read exactly where no element is -65536. -/
theorem readRwin_eq_ok {s : State} {W : Lookback} : s.readRwin = .ok W ↔ s.RwinInRange ∧ W = signedView s.rwin := by
  unfold State.readRwin
  split
  · rename_i h
    refine ⟨fun e => ?_, fun e => ?_⟩
    · exact ⟨h, (Except.ok.inj e).symm⟩
    · rw [e.2]
  · rename_i h
    refine ⟨fun e => ?_, fun e => ?_⟩
    · exact nomatch e
    · exact absurd (And.left e) h

end Sys2Proof.Machine
end

