-- ==== Sys2Proof/Laws/Windows.lean ====
section
/-! SUPPORT. What a push does to a window, and what a signed view reads (R11, R131). -/

namespace Sys2Proof.Machine

variable {w : Nat} (W : Window w) (v : BitVec w)

/-- An element after a push: the new value at 0, and each older place holds what the place before it held. -/
theorem push_getElem (k : Nat) (hk : k < 16) :
    (push W v)[k] = if k = 0 then v else W[k - 1] := by
  simp only [push, Vector.getElem_ofFn]

@[simp] theorem push_zero : (push W v)[0] = v := by simp [push_getElem]

@[simp] theorem push_succ (k : Nat) (hk : k + 1 < 16) : (push W v)[k + 1] = W[k] := by simp [push_getElem]

@[simp] theorem signedView_getElem (k : Nat) (hk : k < 16) : (signedView W)[k] = W[k].toInt := by
  simp [signedView]

@[simp] theorem zeroWindow_getElem (k : Nat) (hk : k < 16) : (zeroWindow w)[k] = 0 := by
  simp [zeroWindow]

end Sys2Proof.Machine
end

