-- ==== Sys2Proof/Laws/Rng.lean ====
section
/-! SUPPORT. The generator's steps, the range of a fill, and when a fill succeeds (R101 to R106). -/

namespace Sys2Proof.Machine

@[simp] theorem lfsrSteps_zero (L : Word) : lfsrSteps 0 L = L := rfl

theorem lfsrSteps_succ (n : Nat) (L : Word) : lfsrSteps (n + 1) L = lfsrSteps n (lfsrStep L) := rfl

/-- Steps compose. -/
theorem lfsrSteps_add (m n : Nat) (L : Word) : lfsrSteps (m + n) L = lfsrSteps n (lfsrSteps m L) := by
  induction m generalizing L with
  | zero => simp
  | succ m ih => rw [Nat.succ_add, lfsrSteps_succ, ih, lfsrSteps_succ]

@[simp] theorem rawDraw_fst (L : Word) : (rawDraw L).1 = (lfsrSteps 16 L).setWidth 16 := rfl

@[simp] theorem rawDraw_snd (L : Word) : (rawDraw L).2 = lfsrSteps 16 L := rfl

/-- A fill writes between -65535 and 65535 (R23, R105). -/
theorem fillValue_mem (decor : Bool) (L : Word) :
    -65535 ≤ (fillValue decor L).1 ∧ (fillValue decor L).1 ≤ 65535 := by
  have ha := (nextU16 L).1.isLt
  have hb := (nextU16 (nextU16 L).2).1.isLt
  cases decor <;> simp only [fillValue, Bool.false_eq_true, if_true, if_false] <;> omega

/-- The element that a fill writes holds the fill's value exactly (R105). -/
theorem toInt_fillValue (decor : Bool) (L : Word) :
    (BitVec.ofInt 17 (fillValue decor L).1).toInt = (fillValue decor L).1 := by
  have h := fillValue_mem decor L
  rw [BitVec.toInt_ofInt, Int.bmod_eq_of_le] <;> omega

/-- A fill never writes the pattern of -65536 (R23). -/
theorem fillValue_ne_rwinNever (decor : Bool) (L : Word) : BitVec.ofInt 17 (fillValue decor L).1 ≠ rwinNever := by
  intro h
  have h₁ := congrArg BitVec.toInt h
  rw [toInt_fillValue] at h₁
  have h₂ := fillValue_mem decor L
  have h₃ : rwinNever.toInt = -65536 := by decide
  omega

/-- The state once a sample's fill is stored (R105, R107). -/
def State.filled (s : State) : State := s.storeFill (fillValue s.decor s.lfsr).1 (fillValue s.decor s.lfsr).2

/-- Everything a fill can do (R105): it succeeds exactly where LFSR is not 0, and it writes LFSR and one element of RWIN. -/
theorem fill_eq_ok {s t : State} :
    s.fill = .ok t ↔ s.lfsr ≠ 0 ∧ t = s.filled := by
  by_cases h : s.lfsr = 0
  · simp only [State.fill, State.readLfsr, if_pos h, bind, Except.bind]
    refine ⟨fun e => ?_, fun e => ?_⟩
    · exact nomatch e
    · exact absurd h e.1
  · have hf : s.fill = .ok s.filled := by
      simp only [State.fill, State.filled, State.readLfsr, if_neg h, bind, Except.bind, pure, Except.pure]
    rw [hf]
    exact ⟨fun e => ⟨h, (Except.ok.inj e).symm⟩, fun e => by rw [e.2]⟩

/-- A fill keeps RWIN clear of -65536 (R23). -/
theorem rwinInRange_filled {s : State} (h : s.RwinInRange) : s.filled.RwinInRange := by
  rintro ⟨k, hk⟩
  show (push s.rwin _)[k] ≠ rwinNever
  rw [push_getElem]
  split
  · exact fillValue_ne_rwinNever _ _
  · exact h ⟨k - 1, by omega⟩

end Sys2Proof.Machine
end

