-- ==== Sys2Proof/Laws/Quantize.lean ====
section
/-! SUPPORT. Everything `Dither` and `Quantize` can do to the state (R107, R161), and that they succeed in the states the
spec gives the core. -/

namespace Sys2Proof.Machine

@[simp] theorem filled_raise (s : State) (bits : Word) (h : Bool) : (s.raise bits h).filled = s.filled.raise bits h := rfl
@[simp] theorem filled_coef (s : State) : s.filled.coef = s.coef := rfl
@[simp] theorem filled_cfg (s : State) : s.filled.cfg = s.cfg := rfl
@[simp] theorem filled_ewin (s : State) : s.filled.ewin = s.ewin := rfl
@[simp] theorem filled_status (s : State) : s.filled.status = s.status := rfl
@[simp] theorem filled_input (s : State) : s.filled.input = s.input := rfl
@[simp] theorem filled_responses (s : State) : s.filled.responses = s.responses := rfl
@[simp] theorem filled_dsel (s : State) : s.filled.dsel = s.dsel := rfl
@[simp] theorem filled_esel (s : State) : s.filled.esel = s.esel := rfl
@[simp] theorem filled_fixbits (s : State) : s.filled.fixbits = s.fixbits := rfl
@[simp] theorem filled_lfsr (s : State) : s.filled.lfsr = (fillValue s.decor s.lfsr).2 := rfl
@[simp] theorem filled_rwin (s : State) :
    s.filled.rwin = push s.rwin (BitVec.ofInt 17 (fillValue s.decor s.lfsr).1) := rfl

/-- Everything `Dither` can do (R107): the fill, then the filter of CFG.DSEL over the filled window. -/
theorem dither_eq_ok {s t : State} {D : Int} :
    s.dither = .ok (D, t) ↔
      s.lfsr ≠ 0 ∧ s.filled.RwinInRange ∧
        ∃ y, filterExact s.coef s.dsel (signedView s.filled.rwin) = .ok y ∧ D = sat64 y ∧
          t = s.filled.raise satIntBit (y != sat64 y) := by
  unfold State.dither
  constructor
  · intro h
    cases hf : s.fill with
    | error e => rw [hf] at h; exact nomatch h
    | ok u =>
      obtain ⟨h0, rfl⟩ := fill_eq_ok.mp hf
      cases hr : s.filled.readRwin with
      | error e => simp only [hf, bind, Except.bind] at h; rw [hr] at h; exact nomatch h
      | ok W =>
        obtain ⟨hr', rfl⟩ := readRwin_eq_ok.mp hr
        simp only [hf, bind, Except.bind] at h
        rw [hr] at h
        exact ⟨h0, hr', filter_eq_ok.mp h⟩
  · rintro ⟨h0, hr, hy⟩
    simp only [fill_eq_ok.mpr ⟨h0, rfl⟩, bind, Except.bind]
    rw [readRwin_eq_ok.mpr ⟨hr, rfl⟩]
    exact filter_eq_ok.mpr hy

/-- The numbers of one quantization (R161): the exact values of the two filters, from which every step follows. -/
structure Trace where
  e : Int
  d : Int

/-- The clamped pre-rounding sum of a trace (R164). -/
def Trace.preSum (q : Trace) (x : Scaled) : Int := Sys2Proof.Machine.preSum x (sat64 q.e)

/-- The state that one quantization leaves, given its trace (R161). -/
def State.quantized (s : State) (b : Word) (q : Trace) : State :=
  let f := s.fixbits
  let x := scaleSample f b
  let P := q.preSum x
  let c := candidate f P (sat64 q.d)
  (((((s.raise nanInBit (f32IsNan b)).raise satIntBit (q.e != sat64 q.e)).raise satAccBit
      (preSumClamped x (sat64 q.e))).filled.raise satIntBit (q.d != sat64 q.d)).storeResidual
      (residual f P (sat64 q.d))).raise satOutBit (c != sat16 c)

/-- The output sample that one quantization gives, given its trace (R167). -/
def State.output (s : State) (b : Word) (q : Trace) : BitVec 16 :=
  BitVec.ofInt 16 (sat16 (candidate s.fixbits (q.preSum (scaleSample s.fixbits b)) (sat64 q.d)))

/-- The two filters of one quantization have the values of the trace, and nothing it reads is a fault (R161). -/
def State.Traces (s : State) (q : Trace) : Prop :=
  filterExact s.coef s.esel (signedView s.ewin) = .ok q.e ∧ s.lfsr ≠ 0 ∧ s.filled.RwinInRange ∧
    filterExact s.coef s.dsel (signedView s.filled.rwin) = .ok q.d

/-- Everything `Quantize` can do (R161). -/
theorem quantize_eq_ok {b : Word} {s t : State} {out : BitVec 16} :
    quantize b s = .ok (out, t) ↔ ∃ q, s.Traces q ∧ out = s.output b q ∧ t = s.quantized b q := by
  unfold quantize
  constructor
  · intro h
    cases he : (s.raise nanInBit (f32IsNan b)).errorTerm with
    | error e => simp only [bind, Except.bind, he] at h; exact nomatch h
    | ok p =>
      obtain ⟨e, s₁⟩ := p
      obtain ⟨y, hy, rfl, rfl⟩ := filter_eq_ok.mp he
      simp only [bind, Except.bind, he] at h
      cases hd : (((s.raise nanInBit (f32IsNan b)).raise satIntBit (y != sat64 y)).raise satAccBit
          (preSumClamped (scaleSample s.fixbits b) (sat64 y))).dither with
      | error e => rw [hd] at h; exact nomatch h
      | ok p =>
        obtain ⟨D, s₂⟩ := p
        obtain ⟨h0, hr, z, hz, rfl, rfl⟩ := dither_eq_ok.mp hd
        rw [hd] at h
        obtain ⟨rfl, rfl⟩ := Prod.mk.inj (Except.ok.inj h)
        exact ⟨⟨y, z⟩, ⟨hy, h0, hr, hz⟩, rfl, rfl⟩
  · rintro ⟨⟨y, z⟩, ⟨hy, h0, hr, hz⟩, rfl, rfl⟩
    have he : (s.raise nanInBit (f32IsNan b)).errorTerm =
        .ok (sat64 y, (s.raise nanInBit (f32IsNan b)).raise satIntBit (y != sat64 y)) :=
      filter_eq_ok.mpr ⟨y, hy, rfl, rfl⟩
    have hd : (((s.raise nanInBit (f32IsNan b)).raise satIntBit (y != sat64 y)).raise satAccBit
          (preSumClamped (scaleSample s.fixbits b) (sat64 y))).dither = .ok (sat64 z, _) :=
      dither_eq_ok.mpr ⟨h0, hr, z, hz, rfl, rfl⟩
    simp only [bind, Except.bind, he]
    rw [hd]
    rfl

/-- A quantization succeeds wherever its filters have values. -/
theorem quantize_of_traces {s : State} {q : Trace} (b : Word) (h : s.Traces q) :
    quantize b s = .ok (s.output b q, s.quantized b q) :=
  quantize_eq_ok.mpr ⟨q, h, rfl, rfl⟩

/-- Where CFG and COEF are legal, LFSR is not 0 and RWIN is in range, every sample is quantized (R161: Quantize cannot
fail). -/
theorem traces_of_legal {s : State} (h0 : s.lfsr ≠ 0) (hr : s.RwinInRange) (hc : CoefFinite s.coef)
    (he : selectorLegal s.esel = true) (hd : selectorLegal s.dsel = true) : ∃ q, s.Traces q := by
  obtain ⟨y, hy⟩ := filterExact_ok (signedView s.ewin) hc he
  obtain ⟨z, hz⟩ := filterExact_ok (signedView s.filled.rwin) hc hd
  exact ⟨⟨y, z⟩, hy, h0, rwinInRange_filled hr, hz⟩

section
variable (s : State) (b : Word) (q : Trace)

@[simp] theorem quantized_lfsr : (s.quantized b q).lfsr = (fillValue s.decor s.lfsr).2 := rfl
@[simp] theorem quantized_rwin :
    (s.quantized b q).rwin = push s.rwin (BitVec.ofInt 17 (fillValue s.decor s.lfsr).1) := rfl
@[simp] theorem quantized_ewin : (s.quantized b q).ewin = push s.ewin (BitVec.ofInt 64 (sat64
    (residual s.fixbits (q.preSum (scaleSample s.fixbits b)) (sat64 q.d)))) := rfl
@[simp] theorem quantized_coef : (s.quantized b q).coef = s.coef := rfl
@[simp] theorem quantized_cfg : (s.quantized b q).cfg = s.cfg := rfl
@[simp] theorem quantized_input : (s.quantized b q).input = s.input := rfl
@[simp] theorem quantized_responses : (s.quantized b q).responses = s.responses := rfl
@[simp] theorem quantized_esel : (s.quantized b q).esel = s.esel := rfl
@[simp] theorem quantized_dsel : (s.quantized b q).dsel = s.dsel := rfl
@[simp] theorem quantized_decor : (s.quantized b q).decor = s.decor := rfl
@[simp] theorem quantized_fixbits : (s.quantized b q).fixbits = s.fixbits := rfl
@[simp] theorem quantized_fast : (s.quantized b q).fast = s.fast := rfl

/-- The residual that a quantization leaves in EWIN[0], as a number (R166). -/
theorem quantized_ewin_zero_toInt : ((s.quantized b q).ewin[0]).toInt =
    sat64 (residual s.fixbits (q.preSum (scaleSample s.fixbits b)) (sat64 q.d)) := by
  rw [quantized_ewin, push_zero, toInt_ofInt_sat64]

end

end Sys2Proof.Machine
end

