-- ==== Sys2Proof/Laws/Exec.lean ====
section
/-! SUPPORT. Everything each command can do when it answers a next state, and everything a step can do. -/

namespace Sys2Proof.Machine

variable {s t : State}

/-- An outcome is a next state exactly where the work succeeded. -/
theorem outcomeOf_eq_next {r : Except Fault State} : outcomeOf r = .next t ↔ r = .ok t := by
  cases r <;> simp [outcomeOf]

/-- Everything NOP can do (R190). -/
theorem execNop_cases {rsv : BitVec 28} (h : execNop rsv s = .next t) :
    (rsv ≠ 0 ∧ t = s.reject .reservedBits) ∨ (rsv = 0 ∧ t = s.respond []) := by
  unfold execNop at h
  split at h <;> cases h
  · exact .inl ⟨‹_›, rfl⟩
  · exact .inr ⟨not_not.mp ‹_›, rfl⟩

/-- Everything INIT can do (R192). -/
theorem execInit_cases {rsv : BitVec 28} {seed : Word} (h : execInit rsv seed s = .next t) :
    (rsv ≠ 0 ∧ t = s.reject .reservedBits) ∨ (rsv = 0 ∧ t = (s.startSession seed).respond []) := by
  unfold execInit at h
  split at h <;> cases h
  · exact .inl ⟨‹_›, rfl⟩
  · exact .inr ⟨not_not.mp ‹_›, rfl⟩

/-- Everything CFG can do (R194). -/
theorem execCfg_cases {fast : BitVec 1} {rsvHi : BitVec 3} {fixm1 : BitVec 4} {rsvLo : BitVec 3} {decor : BitVec 1}
    {dsel esel : BitVec 8} (h : execCfg fast rsvHi fixm1 rsvLo decor dsel esel s = .next t) :
    (∃ code, t = s.reject code) ∨
      (rsvHi = 0 ∧ rsvLo = 0 ∧ selectorLegal esel = true ∧ selectorLegal dsel = true ∧
        (fast = 1 → fastAllowed fixm1 decor dsel esel = true) ∧
        t = (s.writeCfg (cfgBody fast rsvHi fixm1 rsvLo decor dsel esel)).respond []) := by
  unfold execCfg at h
  split at h
  · cases h; exact .inl ⟨_, rfl⟩
  · split at h
    · cases h; exact .inl ⟨_, rfl⟩
    · split at h <;> cases h
      · exact .inl ⟨_, rfl⟩
      · simp_all

/-- Everything WCOEF can do (R196). -/
theorem execWcoef_cases {rsv : BitVec 24} {idx : BitVec 4} {bits : Word} (h : execWcoef rsv idx bits s = .next t) :
    (∃ code, t = s.reject code) ∨
      (rsv = 0 ∧ f32IsFinite bits = true ∧ t = (s.writeCoef idx bits).respond []) := by
  unfold execWcoef at h
  split at h
  · cases h; exact .inl ⟨_, rfl⟩
  · split at h <;> cases h
    · exact .inl ⟨_, rfl⟩
    · simp_all

/-- Everything RDREG can do (R200). -/
theorem execRdreg_cases {rsv : BitVec 20} {ridx : BitVec 8} (h : execRdreg rsv ridx s = .next t) :
    (∃ code, t = s.reject code) ∨
      (rsv = 0 ∧ ∃ r v, RegName.ofIndex ridx = some r ∧ s.readReg r = .ok v ∧ t = s.respond [v]) := by
  unfold execRdreg at h
  split at h
  · cases h; exact .inl ⟨_, rfl⟩
  · rename_i hz
    split at h
    · cases h; exact .inl ⟨_, rfl⟩
    · rename_i r hr
      split at h <;> cases h
      rename_i v hv
      exact .inr ⟨not_not.mp hz, r, v, hr, hv, rfl⟩

/-- Everything CLRST can do (R202). -/
theorem execClrst_cases {rsv : BitVec 28} (h : execClrst rsv s = .next t) :
    (rsv ≠ 0 ∧ t = s.reject .reservedBits) ∨ (rsv = 0 ∧ t = s.clearStatus.respond []) := by
  unfold execClrst at h
  split at h <;> cases h
  · exact .inl ⟨‹_›, rfl⟩
  · exact .inr ⟨not_not.mp ‹_›, rfl⟩

/-- QUANT of a sample whose filters have values (R168). -/
theorem execQuant_of_traces {q : Trace} (b : Word) (h : s.Traces q) :
    execQuant 0 b s = .next ((s.quantized b q).respond [sampleWord (s.output b q)]) := by
  simp only [execQuant, ne_eq, not_true_eq_false, if_false, quantize_of_traces b h]
  rfl

/-- Everything QUANT can do (R168). -/
theorem execQuant_cases {rsv : BitVec 28} {b : Word} (h : execQuant rsv b s = .next t) :
    (rsv ≠ 0 ∧ t = s.reject .reservedBits) ∨
      (rsv = 0 ∧ ∃ q, s.Traces q ∧ t = (s.quantized b q).respond [sampleWord (s.output b q)]) := by
  unfold execQuant at h
  split at h
  · cases h; exact .inl ⟨‹_›, rfl⟩
  · rename_i hz
    rw [outcomeOf_eq_next] at h
    cases hq : quantize b s with
    | error e => rw [hq] at h; exact nomatch h
    | ok p =>
      obtain ⟨q, hq', ho, hs⟩ := quantize_eq_ok.mp (show quantize b s = .ok (p.1, p.2) from hq)
      rw [hq] at h
      refine .inr ⟨not_not.mp hz, q, hq', ?_⟩
      rw [← ho, ← hs]
      exact (Except.ok.inj h).symm

/-- Four quantizations in lane order, each on the state that the one before it left (R171). -/
structure Lanes (b0 b1 b2 b3 : Word) (s : State) where
  q0 : Trace
  q1 : Trace
  q2 : Trace
  q3 : Trace

namespace Lanes
variable {b0 b1 b2 b3 : Word}

/-- The state after lane 0. -/
def s1 (l : Lanes b0 b1 b2 b3 s) : State := s.quantized b0 l.q0
/-- The state after lane 1. -/
def s2 (l : Lanes b0 b1 b2 b3 s) : State := l.s1.quantized b1 l.q1
/-- The state after lane 2. -/
def s3 (l : Lanes b0 b1 b2 b3 s) : State := l.s2.quantized b2 l.q2
/-- The state after lane 3. -/
def s4 (l : Lanes b0 b1 b2 b3 s) : State := l.s3.quantized b3 l.q3

/-- Every lane's filters have values. -/
def Valid (l : Lanes b0 b1 b2 b3 s) : Prop :=
  s.Traces l.q0 ∧ l.s1.Traces l.q1 ∧ l.s2.Traces l.q2 ∧ l.s3.Traces l.q3

/-- QUANT4's two response words (R54 b, R171). -/
def words (l : Lanes b0 b1 b2 b3 s) : List Word :=
  [laneWord (s.output b0 l.q0) (l.s1.output b1 l.q1), laneWord (l.s2.output b2 l.q2) (l.s3.output b3 l.q3)]

end Lanes

/-- QUANT4 with CFG.FAST set, of samples whose filters have values (R171). -/
theorem execQuant4_of_lanes {b0 b1 b2 b3 : Word} (l : Lanes b0 b1 b2 b3 s) (hf : s.fast = true) (h : l.Valid) :
    execQuant4 0 b0 b1 b2 b3 s = .next (l.s4.respond l.words) := by
  obtain ⟨h0, h1, h2, h3⟩ := h
  have e0 := quantize_of_traces b0 h0
  have e1 := quantize_of_traces b1 h1
  have e2 := quantize_of_traces b2 h2
  have e3 := quantize_of_traces b3 h3
  simp only [Lanes.s1, Lanes.s2, Lanes.s3] at e1 e2 e3
  simp only [execQuant4, ne_eq, not_true_eq_false, if_false, hf, Bool.not_true, Bool.false_eq_true, e0, e1, e2, e3,
    bind, Except.bind]
  rfl

/-- Everything QUANT4 can do (R171). -/
theorem execQuant4_cases {rsv : BitVec 28} {b0 b1 b2 b3 : Word} (h : execQuant4 rsv b0 b1 b2 b3 s = .next t) :
    (∃ code, t = s.reject code) ∨
      (rsv = 0 ∧ s.fast = true ∧ ∃ l : Lanes b0 b1 b2 b3 s, l.Valid ∧ t = l.s4.respond l.words) := by
  unfold execQuant4 at h
  split at h
  · cases h; exact .inl ⟨_, rfl⟩
  · rename_i hz
    split at h
    · cases h; exact .inl ⟨_, rfl⟩
    · rename_i hf
      rw [outcomeOf_eq_next] at h
      have lane : ∀ {b : Word} {u : State} {k : BitVec 16 × State → Except Fault State},
          (quantize b u >>= k) = .ok t → ∃ q, u.Traces q ∧ k (u.output b q, u.quantized b q) = .ok t := by
        intro b u k hk
        cases hq : quantize b u with
        | error e => rw [hq] at hk; exact nomatch hk
        | ok p =>
          obtain ⟨q, hq', ho, hs⟩ := quantize_eq_ok.mp (show quantize b u = .ok (p.1, p.2) from hq)
          rw [hq] at hk
          exact ⟨q, hq', by rw [← ho, ← hs]; exact hk⟩
      obtain ⟨q0, h0, h⟩ := lane h
      obtain ⟨q1, h1, h⟩ := lane h
      obtain ⟨q2, h2, h⟩ := lane h
      obtain ⟨q3, h3, h⟩ := lane h
      refine .inr ⟨not_not.mp hz, by simpa using hf, ⟨q0, q1, q2, q3⟩, ⟨h0, h1, h2, h3⟩, ?_⟩
      exact (Except.ok.inj h).symm

/-- No command is refused. -/
theorem exec_ne_refused (i : Instr) (s : State) (r : Refusal) : exec i s ≠ .refused r := by
  have ho : ∀ x : Except Fault State, outcomeOf x ≠ .refused r := by
    intro x; cases x <;> simp [outcomeOf]
  cases i with
  | nop rsv => simp only [exec, execNop]; split <;> simp
  | init rsv seed => simp only [exec, execInit]; split <;> simp
  | cfg => simp only [exec, execCfg]; split <;> [simp; (split <;> [simp; (split <;> simp)])]
  | wcoef => simp only [exec, execWcoef]; split <;> [simp; (split <;> simp)]
  | quant => simp only [exec, execQuant]; split <;> [simp; exact ho _]
  | quant4 => simp only [exec, execQuant4]; split <;> [simp; (split <;> [simp; exact ho _])]
  | rdreg => simp only [exec, execRdreg]; split <;> [simp; (split <;> [simp; (split <;> simp)])]
  | clrst => simp only [exec, execClrst]; split <;> simp

/-- Everything a step can do: a command, the rejection of a reserved opcode, a reset, or waiting. -/
theorem step_cases {o : Host.Outcome State Fault Refusal} (h : step s = o) :
    (∃ i rest, fetch s.input = .command i rest ∧ o = exec i (s.withInput rest)) ∨
      (∃ rest, fetch s.input = .illegalOpcode rest ∧ o = .next ((s.withInput rest).reject .illegalOpcode)) ∨
      (∃ rest, fetch s.input = .reset rest ∧ o = .next (s.hostReset rest)) ∨
      (fetch s.input = .waiting ∧ o = .next s) := by
  unfold step at h
  split at h <;> rename_i hf <;> simp [hf, h]

end Sys2Proof.Machine
end

