-- ==== Sys2Proof/Laws/PerInstr.lean ====
section
/-! SUPPORT. Statements about every command as syntax, one lemma a constructor. -/

namespace Sys2Proof.Laws.EncodedLength

/-- The words a command encodes to are one command word and exactly the operand words that the word's opcode takes (R71). -/
def Statement (i : Instr) : Prop :=
  ∃ cw ops, encode i = cw :: ops ∧ ops.length = operandCount (opcode cw)

/-- The opcode of a word whose upper four bits are `opc`. -/
theorem opcode_append (opc : BitVec 4) (low : BitVec 28) : opcode (opc ++ low) = opc := by
  ext k hk
  have h := BitVec.getLsbD_append (x := opc) (y := low) (i := 28 + k)
  simp only [opcode, BitVec.getElem_extractLsb']
  rw [if_neg (by omega), Nat.add_sub_cancel_left] at h
  exact h.trans (BitVec.getLsbD_eq_getElem hk)

theorem nop (rsv : BitVec 28) : Statement (.nop rsv) :=
  ⟨_, _, rfl, by rw [opcode_append]; rfl⟩

theorem init (rsv : BitVec 28) (seed : Word) : Statement (.init rsv seed) :=
  ⟨_, _, rfl, by rw [opcode_append]; rfl⟩

theorem cfg (fast : BitVec 1) (rsvHi : BitVec 3) (fixm1 : BitVec 4) (rsvLo : BitVec 3) (decor : BitVec 1)
    (dsel esel : BitVec 8) : Statement (.cfg fast rsvHi fixm1 rsvLo decor dsel esel) :=
  ⟨_, _, rfl, by rw [opcode_append]; rfl⟩

theorem wcoef (rsv : BitVec 24) (idx : BitVec 4) (bits : Word) : Statement (.wcoef rsv idx bits) :=
  ⟨_, _, rfl, by
    rw [show (0x3#4 ++ rsv ++ idx : Word) = 0x3#4 ++ (rsv ++ idx : BitVec 28) by rw [BitVec.append_assoc]; rfl,
      opcode_append]; rfl⟩

theorem quant (rsv : BitVec 28) (b : Word) : Statement (.quant rsv b) :=
  ⟨_, _, rfl, by rw [opcode_append]; rfl⟩

theorem quant4 (rsv : BitVec 28) (b0 b1 b2 b3 : Word) : Statement (.quant4 rsv b0 b1 b2 b3) :=
  ⟨_, _, rfl, by rw [opcode_append]; rfl⟩

theorem rdreg (rsv : BitVec 20) (ridx : BitVec 8) : Statement (.rdreg rsv ridx) :=
  ⟨_, _, rfl, by
    rw [show (0x6#4 ++ rsv ++ ridx : Word) = 0x6#4 ++ (rsv ++ ridx : BitVec 28) by rw [BitVec.append_assoc]; rfl,
      opcode_append]; rfl⟩

theorem clrst (rsv : BitVec 28) : Statement (.clrst rsv) :=
  ⟨_, _, rfl, by rw [opcode_append]; rfl⟩

end Sys2Proof.Laws.EncodedLength
end

