-- ==== Sys2Proof/Laws/Port.lean ====
section
/-! SUPPORT. What the core finds in its input when whole words stand before the rest of it. -/

namespace Sys2Proof.Machine

@[simp] theorem leadingWords_words (ws : List Word) (later : List PortEvent) :
    leadingWords (ws.map .word ++ later) = ws ++ leadingWords later := by
  induction ws with
  | nil => rfl
  | cons w ws ih => simp [leadingWords, ih]

@[simp] theorem fromReset_words (ws : List Word) (later : List PortEvent) :
    fromReset (ws.map .word ++ later) = fromReset later := by
  induction ws with
  | nil => rfl
  | cons w ws ih => simp [fromReset, ih]

/-- The input is its leading words and what follows from the first reset. -/
theorem leadingWords_append_fromReset (input : List PortEvent) :
    (leadingWords input).map .word ++ fromReset input = input := by
  induction input with
  | nil => rfl
  | cons e rest ih => cases e <;> simp [leadingWords, fromReset, ih]

/-- What follows the leading words is nothing or begins with a reset. -/
theorem fromReset_cases (input : List PortEvent) : fromReset input = [] ∨ ∃ later, fromReset input = .reset :: later := by
  induction input with
  | nil => exact .inl rfl
  | cons e rest ih =>
    cases e with
    | word w => exact ih
    | reset => exact .inr ⟨rest, rfl⟩

/-- A whole command at the head of the leading words is what the core takes. -/
theorem fetch_of_command {input : List PortEvent} {i : Instr} {rest : List Word}
    (h : decode (leadingWords input) = .command i rest) :
    fetch input = .command i (rest.map .word ++ fromReset input) := by
  simp [fetch, h]

end Sys2Proof.Machine
end

