-- ==== Sys2Proof/Tests/Slice0.lean ====
section
/-! SUPPORT. The model's own tests: each check of `Instr.wellFormed` refuses an ill-formed command, written-out words decode,
and single operations and single steps give the values of `95_test_vectors.md`; then one state or one list of operands that
meets the premises of each statement that has premises. -/

open Sys2Proof Sys2Proof.Machine Sys2Proof.Claims

namespace Sys2Proof.Tests

/-! ## Well-formedness: one ill-formed command for each check -/

theorem test_wellFormed_refuses_nop : (Instr.nop 0x0000001).wellFormed = false := by decide
theorem test_wellFormed_refuses_init : (Instr.init 0x8000000 5).wellFormed = false := by decide
theorem test_wellFormed_refuses_cfg_high : (Instr.cfg 1 0b001 15 0 0 2 0).wellFormed = false := by decide
theorem test_wellFormed_refuses_cfg_low : (Instr.cfg 0 0 15 0b100 0 2 0).wellFormed = false := by decide
theorem test_wellFormed_refuses_wcoef : (Instr.wcoef 0x000001 5 0).wellFormed = false := by decide
theorem test_wellFormed_refuses_quant : (Instr.quant 0x0000001 0).wellFormed = false := by decide
theorem test_wellFormed_refuses_quant4 : (Instr.quant4 0x0000001 0 0 0 0).wellFormed = false := by decide
theorem test_wellFormed_refuses_rdreg : (Instr.rdreg 0x00001 1).wellFormed = false := by decide
theorem test_wellFormed_refuses_clrst : (Instr.clrst 0x0000001).wellFormed = false := by decide
theorem test_wellFormed_accepts_cfg : (Instr.cfg 1 0 15 0 0 2 0).wellFormed = true := by decide

/-! ## Decoding: words written out bit by bit from R74 -/

theorem test_decode_nop : decode [0b0000_0000000000000000000000000000#32] = .command (.nop 0) [] := by decide

theorem test_decode_init : decode [0b0001_0000000000000000000000000000#32, 0x12345678] =
    .command (.init 0 0x12345678) [] := by decide

/-- OPC 2, FAST 0, 000, FIXM1 7, 000, DECOR 1, DSEL 255, ESEL 4: program P7's CFG. -/
theorem test_decode_cfg : decode [0b0010_0_000_0111_000_1_11111111_00000100#32] =
    .command (.cfg 0 0 7 0 1 255 4) [] := by decide

/-- Every reserved bit of CFG reaches the command. -/
theorem test_decode_cfg_reserved : decode [0b0010_1_101_0010_011_0_10000001_00011000#32] =
    .command (.cfg 1 0b101 2 0b011 0 0x81 0x18) [] := by decide

/-- OPC 3, 24 reserved bits, IDX 5. -/
theorem test_decode_wcoef : decode [0b0011_000000000000000000000000_0101#32, 0xC0490FDB, 7] =
    .command (.wcoef 0 5 0xC0490FDB) [7] := by decide

theorem test_decode_quant : decode [0b0100_0000000000000000000000000000#32, 0x3FC00000] =
    .command (.quant 0 0x3FC00000) [] := by decide

theorem test_decode_quant4 : decode [0b0101_0000000000000000000000000001#32, 1, 2, 3, 4, 5] =
    .command (.quant4 1 1 2 3 4) [5] := by decide

/-- OPC 6, 20 reserved bits, RIDX 0x4B. -/
theorem test_decode_rdreg : decode [0b0110_00000000000000000001_01001011#32] = .command (.rdreg 1 0x4B) [] := by decide

theorem test_decode_clrst : decode [0b0111_0000000000000000000000000000#32] = .command (.clrst 0) [] := by decide

/-- R79: a reserved opcode takes no operand words. -/
theorem test_decode_illegal : decode [0x80000000, 0x40000000] = .illegalOpcode [0x40000000] := by decide

theorem test_decode_incomplete : decode [0x50000000, 1, 2, 3] = .incomplete := by decide

/-- The opcode table's numbering: the operand word is bits 63:32. -/
theorem test_decodeTableWord : decodeTableWord 64 0xC0490FDB_30000005 = some (.wcoef 0 5 0xC0490FDB) := by decide

/-- A table row of 32 bits for a command with operand words: those words are 0. -/
theorem test_decodeTableWord_short : decodeTableWord 32 0x50000000 = some (.quant4 0 0 0 0 0) := by decide

theorem test_decodeTableWord_illegal : decodeTableWord 32 0xF0000000 = none := by decide

/-! ## Single operations -/

/-- V3 and V1: the first raw draw and the first uniform value from the reset seed. -/
theorem test_draws : rawDraw 1 = (0xB6DB, 0x0001B6DB) ∧ nextU16 1 = (0xA33B, 0x68A3CF21) := by decide

/-- V5: the first fill from reset, with DECOR 0 and with DECOR 1. -/
theorem test_fill : (fillValue false 1).1 = 9019 ∧ (fillValue true 1).1 = -15152 := by decide

/-- A window whose most recent values are `xs`, 0 elsewhere. -/
def window (xs : List Int) : Lookback := Vector.ofFn fun k => xs.getD k.val 0

/-- The values of the ten filters over a window, COEF at its reset value. -/
def tenFilters (xs : List Int) : List (Except Fault Int) :=
  [0, 1, 2, 3, 4, 5, 6, 7, 8, 255].map fun code => filterExact Config.resetCoef code (window xs)

/-- V10: the row [-1, -2, -4], where the halves are floored. -/
theorem test_filters_floor :
    tenFilters [-1, -2, -4] = [0, -1, 1, -2, -6, -1, -1, -2, 6, -1].map .ok := by decide +kernel

/-- V10: the last row. -/
theorem test_filters_draws : tenFilters [9019, 15152, -29370, 9376, -33605] =
    [0, 9019, -6133, -16309, -107576, 6133, 34346, -44522, 157171, 9019].map .ok := by decide +kernel

/-- V11: exact halves go away from zero. -/
theorem test_filters_half : filterExact Config.resetCoef 4 (window [-2, -1, -1, -4]) = .ok 3 ∧
    filterExact Config.resetCoef 4 (window [4, 1, -3, 1]) = .ok (-2) := by decide

/-- V12: 0.5 · -5 rounds to -3, and sixteen coefficients of 1.0 sum the window. -/
theorem test_filters_user :
    filterExact (Config.resetCoef.set 0 0x3F000000) 255 (window [-5]) = .ok (-3) ∧
    filterExact (Vector.replicate 16 0x3F800000) 255 (window ((List.range 16).map fun n => (n : Int) + 1)) = .ok 136 := by
  decide +kernel

/-- V12: the largest coefficient is clamped and sets SAT_INT. -/
theorem test_filter_clamps :
    ({ State.reset with coef := Config.resetCoef.set 0 0x7F7FFFFF }.filter 255 (window [-1])).map
      (fun p : Int × State => (p.1, p.2.status)) = .ok (-9223372036854775808, 0x100) := by decide +kernel

/-- V18: the assembler, a decimal and a CFG line among its forms. -/
theorem test_assemble_decimal : assembleLine "WCOEFF 2, -0.25" = some [0x30000002, 0xBE800000] := by decide +kernel

theorem test_assemble_setup : assembleLine "SETUP fixbits=8, dither=0x102, shaping=4, fast=0" = some [0x20710204] := by
  decide +kernel

/-! ## Single steps, at most two for each command, with the values of V14 to V20 and of the programs -/

/-- The outcome is a next state with this property. -/
def goesTo (o : Host.Outcome State Fault Refusal) (p : State → Bool) : Bool :=
  match o with
  | .next t => p t
  | .fault _ => false
  | .refused _ => false

/-- V20, line 1. -/
theorem test_nop : goesTo (exec (.nop 0) State.reset) (fun t => t == { State.reset with responses := [.ok []] }) = true := by
  decide

/-- P5: `.word 0x00000001` is rejected with code 2. -/
theorem test_nop_reserved :
    goesTo (step { State.reset with input := [.word 0x00000001] }) (fun t => t.status == 0x12 && t.responses == [.rej]) =
      true := by decide

/-- V20, lines 2 and 4. -/
theorem test_init : goesTo (exec (.init 0 0xDEADBEEF) State.reset) (fun t => t.lfsr == 0xDEADBEEF) = true ∧
    goesTo (exec (.init 0 0) { State.reset with lfsr := 9 }) (fun t => t.lfsr == 1) = true := by decide

/-- V20, line 7. -/
theorem test_cfg : goesTo (step (State.reset.withFetchWord 32 0x2071FF04)) (fun t => t.cfg == 0x0071FF04) = true := by
  decide

/-- V19: 0x28F00209 is BAD_SELECTOR before FAST_PRECOND, and 0x28700200 is FAST_PRECOND. -/
theorem test_cfg_rejected :
    goesTo (step (State.reset.withFetchWord 32 0x28F00209)) (fun t => t.status == 0x13 && t.cfg == 0x00F00200) = true ∧
    goesTo (step (State.reset.withFetchWord 32 0x28700200)) (fun t => t.status == 0x14 && t.cfg == 0x00F00200) = true := by
  decide

/-- V20, line 14: -0.0 is kept as it is written. -/
theorem test_wcoef : goesTo (exec (.wcoef 0 15 0x80000000) State.reset) (fun t => t.coef[15] == 0x80000000) = true := by
  decide

/-- V20, line 20: a NaN is rejected with code 5. -/
theorem test_wcoef_rejected : goesTo (exec (.wcoef 0 10 0x7F800001) State.reset)
    (fun t => t.status == 0x15 && t.coef == State.reset.coef) = true := by decide

/-- L1.4: +1.5 from reset. -/
theorem test_quant : goesTo (exec (.quant 0 0x3FC00000) State.reset) (fun t =>
    t.responses == [.ok [0x00007FFF]] && t.status == 0x20 && t.rwin[0].toInt == 9019 && t.ewin[0] == 0) = true := by
  decide +kernel

/-- V14: -2^(-149) floors to P = -1, and the residual is -1. -/
theorem test_quant_floor : goesTo (exec (.quant 0 0x80000001) { State.reset with cfg := 0x00F00000 }) (fun t =>
    t.responses == [.ok [0]] && t.ewin[0].toInt == -1 && t.status == 0) = true := by decide +kernel

/-- P4: the first QUANT4 of instance A, its lanes packed two a word. -/
theorem test_quant4 : goesTo (exec (.quant4 0 0x3DCCCCCD 0xBE4CCCCD 0x3E99999A 0x3F7FBE77)
    { State.reset with cfg := 0x08F00200 }) (fun t => t.responses == [.ok [0xE6670CCD, 0x7FDF2666]]) = true := by
  decide +kernel

/-- V19: QUANT4 with FAST = 0 is rejected with code 7, with a reserved bit with code 2. -/
theorem test_quant4_rejected :
    goesTo (exec (.quant4 0 0 0 0 0) State.reset) (fun t => t.status == 0x17 && t.lfsr == 1) = true ∧
    goesTo (exec (.quant4 1 0 0 0 0) State.reset) (fun t => t.status == 0x12 && t.lfsr == 1) = true := by decide

/-- V20: EWIN[3] = -5 and RWIN[15] = -65535 read back. -/
theorem test_rdreg : goesTo (exec (.rdreg 0 0x46) { State.reset with ewin := State.reset.ewin.set 3 (-5) })
      (fun t => t.responses == [.ok [0xFFFFFFFB]]) = true ∧
    goesTo (exec (.rdreg 0 0x47) { State.reset with ewin := State.reset.ewin.set 3 (-5) })
      (fun t => t.responses == [.ok [0xFFFFFFFF]]) = true ∧
    goesTo (exec (.rdreg 0 0x2F) { State.reset with rwin := State.reset.rwin.set 15 (BitVec.ofInt 17 (-65535)) })
      (fun t => t.responses == [.ok [0xFFFF0001]]) = true := by decide +kernel

/-- V19: an unmapped index is rejected with code 6. -/
theorem test_rdreg_rejected : goesTo (exec (.rdreg 0 0x60) State.reset) (fun t => t.status == 0x16) = true := by decide

/-- V20, line 22, and P5: a rejected CLRST clears nothing. -/
theorem test_clrst : goesTo (exec (.clrst 0) { State.reset with status := 0x1F5 }) (fun t => t.status == 0) = true ∧
    goesTo (exec (.clrst 1) { State.reset with status := 0x1F5 }) (fun t => t.status == 0x1F2) = true := by decide

/-- P5: `.word 0x80000000` is rejected with code 1, and the word after it stays. -/
theorem test_illegal_opcode : goesTo (step { State.reset with input := [.word 0x80000000, .word 0x60000001] })
    (fun t => t.status == 0x11 && t.input == [.word 0x60000001]) = true := by decide

/-- R251: a reset between a QUANT's words abandons it. -/
theorem test_reset_abandons :
    goesTo (step { State.reset with status := 0x12, input := [.word 0x40000000, .reset, .word 0] })
      (fun t => t == { State.reset with input := [.word 0] }) = true := by decide

/-! ## Premises: for each statement with premises, values that meet them -/

/-- A legal state with other selectors and fixbits: DSEL 0, ESEL 1, fixbits 16. -/
def feedback : State := { State.reset with cfg := 0x00F00001 }

/-- A legal state with FAST set. -/
def fastState : State := { State.reset with cfg := 0x08F00200 }

/-- A legal state with the user filter as the feedback filter. -/
def userFeedback : State := { State.reset with cfg := 0x00F002FF }

/-- A legal state with DSEL 0, ESEL 0. -/
def noDither : State := { State.reset with cfg := 0x00F00000 }

/-- A legal state with the decorrelated fill, fixbits 1 and selector 8. -/
def decorrelated : State := { State.reset with cfg := 0x00010804 }

/-- A state whose first sample has the dither value 9019 - v, with selector 2. -/
def ditherAt (v : Int) : State := { State.reset with rwin := State.reset.rwin.set 0 (BitVec.ofInt 17 v) }

theorem witness_EncodeOfDecodeIsTheWords : decode [0x40000003, 5, 6] = .command (.quant 3 5) [6] := by decide

theorem witness_OpcodeAloneFramesTheCommand :
    ([1, 2, 3, 4] : List Word).length = operandWords ((0x50000000 : Word).toNat / 2 ^ 28) ∧
    ([] : List Word).length = operandWords ((0xF0000000 : Word).toNat / 2 ^ 28) ∧
    ([1, 2, 3] : List Word).length < operandWords ((0x50000000 : Word).toNat / 2 ^ 28) ∧
    ([] : List Word).length < operandWords ((0x10000000 : Word).toNat / 2 ^ 28) := by decide

theorem witness_WellFormedIsTheOpcodeMap : encode (.wcoef 1 5 7) = [0x30000015, 7] := by decide

theorem witness_ReservedOpcodeIsRejectedAlone :
    8 ≤ (0x80000000 : Word).toNat / 2 ^ 28 ∧ 8 ≤ (0xF0000001 : Word).toNat / 2 ^ 28 ∧
    { State.reset with input := [.word 0x80000000] }.input = .word 0x80000000 :: [] := by decide

theorem witness_ReservedBitIsRejected :
    encode (.cfg 0 1 15 0 0 9 0) = [0x21F00900] ∧ (0x21F00900 : Word) &&& reservedMask 0x21F00900 ≠ 0 := by decide

theorem witness_StepRunsTheDecodedCommand :
    { State.reset with input := [.word 0x40000000, .word 5, .word 6, .reset] }.input =
      [0x40000000, 5, 6].map .word ++ [.reset] ∧ decode [0x40000000, 5, 6] = .command (.quant 0 5) [6] := by decide

theorem witness_ResetSetsEveryElement :
    { State.reset with input := [.word 0x40000000, .reset, .word 0] }.input = [0x40000000].map .word ++ .reset :: [.word 0] ∧
    decode [0x40000000] = .incomplete ∧ decode [] = .incomplete := by decide

theorem witness_IncompleteCommandWaits :
    { State.reset with input := [.word 0x50000000, .word 1] }.input = [0x50000000, 1].map .word ∧
    decode [0x50000000, 1] = .incomplete ∧ State.reset.input = ([] : List Word).map .word := by decide

theorem witness_StepKeepsLegal : (fastState.withFetchWord 32 0x60000000).Legal ∧
    step (fastState.withFetchWord 32 0x60000000) = .next { fastState with responses := [.ok [0x08F00200]] } :=
  ⟨by decide +kernel, rfl⟩

theorem witness_LegalStateStepsOn : State.reset.Legal ∧ decorrelated.Legal := by decide +kernel

theorem witness_EveryCommandAnswersOnce :
    exec (.clrst 0) State.reset = .next { State.reset with responses := [.ok []] } := rfl

theorem witness_RejectionIsPrecise :
    exec (.nop 1) State.reset = .next (rejectedWith 2 State.reset) ∧
    (rejectedWith 2 State.reset).responses = State.reset.responses ++ [.rej] ∧
    exec (.quant4 0 0 0 0 0) State.reset = .next (rejectedWith 7 State.reset) ∧
    (rejectedWith 7 State.reset).responses = State.reset.responses ++ [.rej] := ⟨rfl, rfl, rfl, rfl⟩

theorem witness_StickyBitsStay :
    exec (.init 0 0) { State.reset with status := 0x1F5 } =
      .next { State.reset with status := 0x1F5, responses := [.ok []] } ∧ Instr.init 0 0 ≠ .clrst 0 :=
  ⟨rfl, by decide⟩

theorem witness_AcceptedCommandKeepsErrCode :
    exec (.rdreg 0 1) { State.reset with status := 0x15 } =
      .next { State.reset with status := 0x15, responses := [.ok [0x15]] } ∧ Instr.rdreg 0 1 ≠ .clrst 0 :=
  ⟨rfl, by decide⟩

theorem witness_StatusIsNoInput :
    Instr.nop 0 ≠ .rdreg 0 0x01 ∧ exec (.nop 0) State.reset = .next { State.reset with responses := [.ok []] } ∧
    Instr.rdreg 0 2 ≠ .rdreg 0 0x01 ∧ exec (.rdreg 0 2) { State.reset with lfsr := 0 } = .fault .lfsrZero :=
  ⟨by decide, rfl, by decide, rfl⟩

theorem witness_OnlyTheirCommandsWrite :
    (∃ t, exec (.clrst 0) State.reset = .next t ∧ ¬ WritesSession (.clrst 0)) ∧
    (∃ t, exec (.wcoef 0 5 0x3F000000) State.reset = .next t ∧ t.coef ≠ State.reset.coef) ∧
    (∃ t, exec (.cfg 1 0 15 0 0 2 0) State.reset = .next t ∧ t.cfg ≠ State.reset.cfg) :=
  ⟨⟨_, rfl, id⟩, ⟨_, rfl, by decide⟩, ⟨_, rfl, by decide⟩⟩

/-- For `NopDoesNothing`, `InitStartsASession`, `ClrstClearsStatus`, `QuantRejectsReservedBitsAlone` and
`Quant4IsFourQuants`: a body with its lowest and one with its highest reserved bit set. -/
theorem witness_reserved_body : (1 : BitVec 28) ≠ 0 ∧ (0x8000000 : BitVec 28) ≠ 0 := by decide

/-- A value for each clause of `CfgWritesWholeOrIsRejectedInOrder`, at the edges of the selector codes. -/
theorem witness_CfgWritesWholeOrIsRejectedInOrder :
    ((1 : BitVec 3) ≠ 0 ∨ (0 : BitVec 3) ≠ 0) ∧
    ¬ (SelectorCode 9 ∧ SelectorCode 2) ∧ ¬ (SelectorCode 8 ∧ SelectorCode 254) ∧
    (SelectorCode 8 ∧ SelectorCode 255 ∧ ¬ ((1 : BitVec 1) = 1 → (255 : BitVec 8) = 2)) ∧
    (SelectorCode 0 ∧ SelectorCode 2 ∧
      ((1 : BitVec 1) = 1 → (2 : BitVec 8) = 2 ∧ (0 : BitVec 1) = 0 ∧ (0 : BitVec 8) = 0 ∧ (15 : BitVec 4) = 15)) ∧
    ((0 : BitVec 1) = 1 → (255 : BitVec 8) = 2 ∧ (0 : BitVec 1) = 0 ∧ (8 : BitVec 8) = 0 ∧ (0 : BitVec 4) = 15) := by
  decide

theorem witness_WcoefStoresAFinitePattern :
    ¬ NotFinite 0x7F7FFFFF ∧ ¬ NotFinite 0x80000000 ∧ NotFinite 0x7F800000 ∧ NotFinite 0xFFFFFFFF ∧
    (1 : BitVec 24) ≠ 0 := by decide

theorem witness_RdregReadsTheIndexMap :
    State.reset.lfsr ≠ 0 ∧ State.reset.RwinInRange ∧
    (∀ ridx ∈ [0x03#8, 0x0F#8, 0x30#8, 0x3F#8, 0x60#8, 0xFF#8], 0x03 ≤ ridx.toNat ∧ ridx.toNat ≤ 0x0F ∨
      0x30 ≤ ridx.toNat ∧ ridx.toNat ≤ 0x3F ∨ 0x60 ≤ ridx.toNat) ∧ (1 : BitVec 20) ≠ 0 := by decide +kernel

theorem witness_LfsrStepIsAPermutation : 30 < 31 ∧ lfsrStep 0x80000000 = lfsrStep 0x80000000 := by decide

theorem witness_EverySampleFillsOnce :
    (noDither.Legal ∧ noDither.decor = false) ∧ (decorrelated.Legal ∧ decorrelated.decor = true) := by decide +kernel

theorem witness_DrawCountDependsOnDecorAlone : decorrelated.Legal ∧ noDither.Legal := by decide +kernel

theorem witness_WithoutDitherTheGeneratorIsUnseen :
    feedback.Legal ∧ { feedback with lfsr := 77, rwin := (ditherAt 5).rwin }.Legal ∧ feedback.dsel = 0 := by decide +kernel

theorem witness_UnreachableValuesFault :
    { State.reset with lfsr := 0 }.lfsr = 0 ∧
    { State.reset with rwin := State.reset.rwin.set 15 0x10000 }.rwin[15].toInt = -65536 := by decide

theorem witness_RhaIsNearestHalvesAway : 0 < 2 ∧ 2 * |(-5 : Int) - rha (-5) 2 * 2| = 2 := by decide

theorem witness_UserFilterRoundsTheExactSum : ∀ i : Fin 16, ¬ NotFinite unitCoef[i] := by decide

theorem witness_OtherCodesHaveNoFilter : ¬ SelectorCode 9 ∧ ¬ SelectorCode 254 := by decide

/-- The exact value inside the 64-bit range, at its upper edge, and one past it. -/
theorem witness_FilterClampsAndFlags :
    filterExact State.reset.coef 1 (window [2 ^ 63 - 1]) = .ok (2 ^ 63 - 1) ∧
    filterExact State.reset.coef 2 (window [2 ^ 63 - 1, -1]) = .ok (2 ^ 63) ∧
    filterExact State.reset.coef 2 (window [-2 ^ 63, 1]) = .ok (-2 ^ 63 - 1) := by decide

theorem witness_FixedSelectorsAreBounded :
    (65535 : Int) ≤ 65535 ∧ (∀ k : Fin 16, |(window [65535, -65535])[k]| ≤ 65535) ∧ (8 : BitVec 8).toNat ≤ 8 ∧
    filterExact unitCoef 2 (window [65535, -65535]) = .ok 131070 := by decide

theorem witness_DitherFilterNeverClamps : (ditherAt (-65535)).RwinInRange ∧ (8 : BitVec 8).toNat ≤ 8 := by decide +kernel

/-- A pattern of each kind, at the edges of the exponent and of the fraction. -/
theorem witness_SampleDecodingIsExact :
    IsNan 0x7F800001 ∧ IsNan 0xFFFFFFFF ∧ IsInf 0x7F800000 ∧ IsInf 0xFF800000 ∧ ¬ NotFinite 0x7F7FFFFF ∧
    ¬ NotFinite 0x80000001 := by decide

theorem witness_ScalingIsExactThenFloors :
    IsNan 0x7F800001 ∧ IsInf 0x7F800000 ∧ IsInf 0xFF800000 ∧ ¬ NotFinite 0x80000001 := by decide

theorem witness_QuantRunsTheSevenSteps : decorrelated.Legal ∧ userFeedback.Legal := by decide +kernel

theorem witness_QuantRejectsReservedBitsAlone : (1 : BitVec 28) ≠ 0 ∧ fastState.Legal := by decide +kernel

theorem witness_WithoutDitherOrFeedbackQuantRounds :
    noDither.Legal ∧ noDither.dsel = 0 ∧ noDither.esel = 0 ∧ ¬ NotFinite 0xB7800000 ∧ IsNan 0x7FC00000 := by decide +kernel

theorem witness_ResidualIsBoundedByTheDither : 1 ≤ 1 ∧ (0 : Int) = 0 := by decide

theorem witness_StoredResidualIsBounded : decorrelated.Legal ∧ decorrelated.dsel.toNat ≤ 8 := by decide +kernel

/-- The dither values -32769, -32768, 32767 and 32768: both sides of each edge of the residual's three cases. -/
theorem witness_OnePointFiveSaturates : ∀ D ∈ [(-32769 : Int), -32768, 32767, 32768],
    (ditherAt (9019 - D)).Legal ∧ (ditherAt (9019 - D)).esel = 0 ∧ (ditherAt (9019 - D)).fixbits = 16 ∧
    filterExact (ditherAt (9019 - D)).coef (ditherAt (9019 - D)).dsel (signedView (push (ditherAt (9019 - D)).rwin
      (BitVec.ofInt 17 (fillValue (ditherAt (9019 - D)).decor (ditherAt (9019 - D)).lfsr).1))) = .ok D ∧
    |D| ≤ 65535 := by decide +kernel

/-- Both edges of the stored residual, and samples of the greatest magnitude admitted. -/
theorem witness_ErrorFeedbackConservesTheSignal :
    (∀ v ∈ [(-32768 : Int), 32767],
      { feedback with ewin := feedback.ewin.set 0 (BitVec.ofInt 64 v) }.Legal ∧
      -2 ^ (feedback.fixbits - 1) ≤ ({ feedback with ewin := feedback.ewin.set 0 (BitVec.ofInt 64 v) }.ewin[0]).toInt ∧
      ({ feedback with ewin := feedback.ewin.set 0 (BitVec.ofInt 64 v) }.ewin[0]).toInt < 2 ^ (feedback.fixbits - 1)) ∧
    feedback.esel = 1 ∧ feedback.dsel = 0 ∧
    (∀ b ∈ [(0x3F000000 : Word), 0xBF000000], ¬ NotFinite b ∧ |f32Value b| ≤ 1 / 2) := by
  refine ⟨by decide +kernel, by decide, by decide, ?_⟩
  simp only [List.forall_mem_cons, List.not_mem_nil, false_imp_iff, implies_true, and_true]
  have h₁ : BitVec.toNat (0x3F000000 : Word) = 1056964608 := rfl
  have h₂ : BitVec.toNat (0xBF000000 : Word) = 3204448256 := rfl
  exact ⟨⟨by decide, by norm_num [f32Value, h₁]⟩, by decide, by norm_num [f32Value, h₂]⟩

/-- A place that the samples reach, the last place they reach, and the first they do not. -/
theorem witness_WindowsHoldTheLastSixteen :
    feedback.Legal ∧ (0 : Fin 16).val < [(1 : Word), 2].length ∧ (1 : Fin 16).val < [(1 : Word), 2].length ∧
    [(1 : Word), 2].length ≤ (2 : Fin 16).val ∧ feedback.rwin = zeros 17 ∧ feedback.ewin = zeros 64 := by decide +kernel

theorem witness_Quant4IsFourQuants :
    (fastState.Legal ∧ fastState.cfg.getLsbD 27 = true) ∧ State.reset.cfg.getLsbD 27 = false ∧ (1 : BitVec 28) ≠ 0 := by
  decide +kernel

theorem witness_FastChangesNoValue : State.reset.Legal ∧ decorrelated.Legal := by decide +kernel

theorem witness_FastConvertEqualsScalarConvert : fastState.Legal ∧ fastState.cfg.getLsbD 27 = true := by decide +kernel

theorem witness_BlockBoundariesAreNotSeen :
    (fastState.Legal ∧ (true = true → fastState.cfg.getLsbD 27 = true)) ∧
    (State.reset.Legal ∧ (false = true → State.reset.cfg.getLsbD 27 = true)) := by decide +kernel

theorem witness_UnitUserFilterIsSelectorOne :
    userFeedback.Legal ∧ userFeedback.coef = unitCoef ∧ userFeedback.esel = 255 := by decide +kernel

theorem witness_LoadCoefWritesTheFirstCoefficients :
    (List.replicate 16 (⟨-25, 2⟩ : Decimal)).length ≤ 16 ∧
    (∀ x ∈ List.replicate 16 (⟨-25, 2⟩ : Decimal), ¬ NotFinite x.bits) := by decide +kernel

theorem witness_F32NearestGivesAFinitePatternBack :
    ¬ NotFinite 0x7F7FFFFF ∧ (0x7F7FFFFF : Word) ≠ 0x80000000 ∧ ¬ NotFinite 0x80000001 ∧
    (0x80000001 : Word) ≠ 0x80000000 := by decide

end Sys2Proof.Tests
end

section
/-! SUPPORT. The generator never reaches 0 from a state other than 0 (R22, R101). -/

namespace Sys2Proof.Machine

variable {L : Word}

/-- A step moves each bit one place up (R101). -/
theorem getLsbD_lfsrStep_succ (L : Word) {i : Nat} (hi : i + 1 < 32) :
    (lfsrStep L).getLsbD (i + 1) = L.getLsbD i := by
  simp [lfsrStep, hi, BitVec.getLsbD_eq_getElem (show i < 32 by omega)]

/-- A step brings the feedback bit in at the bottom (R101). -/
theorem getLsbD_lfsrStep_zero (L : Word) :
    (lfsrStep L).getLsbD 0 = (L.getLsbD 31 ^^ L.getLsbD 21 ^^ L.getLsbD 1 ^^ L.getLsbD 0) := by
  simp [lfsrStep]

/-- The only state that steps to 0 is 0: every bit but the highest is still there, and the highest is fed back. -/
theorem lfsrStep_ne_zero (h : L ≠ 0) : lfsrStep L ≠ 0 := by
  intro hz
  have low {i : Nat} (hi : i < 31) : L.getLsbD i = false := by
    rw [← getLsbD_lfsrStep_succ L (by omega), hz]
    exact BitVec.getLsbD_zero
  have high : L.getLsbD 31 = false := by
    have hfb := getLsbD_lfsrStep_zero L
    rw [hz, low (i := 21) (by omega), low (i := 1) (by omega), low (i := 0) (by omega)] at hfb
    simpa using hfb
  refine h (BitVec.eq_of_getLsbD_eq fun i hi => ?_)
  obtain hi' | rfl : i < 31 ∨ i = 31 := by omega
  · exact (low hi').trans BitVec.getLsbD_zero.symm
  · exact high

theorem lfsrSteps_ne_zero (n : Nat) (h : L ≠ 0) : lfsrSteps n L ≠ 0 := by
  induction n generalizing L with
  | zero => exact h
  | succ n ih => exact ih (lfsrStep_ne_zero h)

theorem nextU16_snd_ne_zero (h : L ≠ 0) : (nextU16 L).2 ≠ 0 :=
  lfsrSteps_ne_zero 16 (lfsrSteps_ne_zero 16 (lfsrSteps_ne_zero 16 h))

/-- A fill leaves the generator at a state other than 0, whether it draws once or twice (R22, R105). -/
theorem fillValue_snd_ne_zero (decor : Bool) (h : L ≠ 0) : (fillValue decor L).2 ≠ 0 := by
  cases decor with
  | false => exact nextU16_snd_ne_zero h
  | true => exact nextU16_snd_ne_zero (nextU16_snd_ne_zero h)

end Sys2Proof.Machine
end

section
/-! SUPPORT. Each part of a sample's work keeps the legal states, so from one every sample is quantized (R161, R168). -/

namespace Sys2Proof.Machine

variable {s : State}

/-- Bits that are neither of ERR nor of ERRCODE, nor among those that read 0: the sticky flags of a sample (R35). -/
abbrev FlagBits (bits : Word) : Prop :=
  bits.extractLsb' 9 23 = 0 ∧ bits.extractLsb' 3 1 = 0 ∧ bits.getLsbD 4 = false ∧ bits.extractLsb' 0 4 = 0

theorem statusLegal_or_flagBits {status bits : Word} (h : StatusLegal status) (hb : FlagBits bits) :
    StatusLegal (status ||| bits) := by
  obtain ⟨hHigh, hBit3, hErr, hCode⟩ := hb
  simpa only [StatusLegal, BitVec.extractLsb'_or, BitVec.getLsbD_or, hHigh, hBit3, hErr, hCode, BitVec.ofNat_eq_ofNat,
    BitVec.or_zero, Bool.or_false] using h

theorem legal_raise {bits : Word} (hb : FlagBits bits) (c : Bool) (h : s.Legal) : (s.raise bits c).Legal := by
  obtain ⟨hlfsr, hrwin, hcoef, hcfg, hstatus⟩ := h
  refine ⟨hlfsr, hrwin, hcoef, hcfg, ?_⟩
  cases c with
  | false => exact hstatus
  | true => exact statusLegal_or_flagBits hstatus hb

theorem legal_filled (h : s.Legal) : s.filled.Legal := by
  obtain ⟨hlfsr, hrwin, hcoef, hcfg, hstatus⟩ := h
  exact ⟨fillValue_snd_ne_zero _ hlfsr, rwinInRange_filled hrwin, hcoef, hcfg, hstatus⟩

theorem legal_storeResidual (r : Int) (h : s.Legal) : (s.storeResidual r).Legal :=
  legal_raise (bits := satIntBit) (by decide) (r != sat64 r) h

/-- A quantization keeps the legal states: five flags raised, one fill and one residual stored (R161). -/
theorem legal_quantized (b : Word) (q : Trace) (h : s.Legal) : (s.quantized b q).Legal := by
  have nan := legal_raise (bits := nanInBit) (by decide) (f32IsNan b) h
  have shaped := legal_raise (bits := satIntBit) (by decide) (q.e != sat64 q.e) nan
  have summed := legal_raise (bits := satAccBit) (by decide)
    (preSumClamped (scaleSample s.fixbits b) (sat64 q.e)) shaped
  have dithered := legal_raise (bits := satIntBit) (by decide) (q.d != sat64 q.d) (legal_filled summed)
  exact legal_raise (by decide) _ (legal_storeResidual _ dithered)

/-- In a legal state both filters of a sample have values, so the sample is quantized (R161). -/
theorem exists_traces_of_legal (h : s.Legal) : ∃ q, s.Traces q := by
  obtain ⟨hlfsr, hrwin, hcoef, ⟨-, -, -, hesel, hdsel, -⟩, -⟩ := h
  exact traces_of_legal hlfsr hrwin hcoef hesel hdsel

/-- QUANT from a legal state goes on to a legal state: the quantization's, with its one response word (R168). -/
theorem exec_quant_of_legal (b : Word) (h : s.Legal) :
    ∃ q, s.Traces q ∧ exec (.quant 0 b) s = .next ((s.quantized b q).respond [sampleWord (s.output b q)]) ∧
      ((s.quantized b q).respond [sampleWord (s.output b q)]).Legal := by
  obtain ⟨q, hq⟩ := exists_traces_of_legal h
  exact ⟨q, hq, execQuant_of_traces b hq, legal_quantized b q h⟩

end Sys2Proof.Machine
end

section
/-! SUPPORT. Lists of commands executed in order, and the scalar conversion as one (R57, R92). -/

namespace Sys2Proof.Machine

variable {s t : State}

theorem execAll_cons_of_next {i : Instr} (h : exec i s = .next t) (is : List Instr) :
    execAll (i :: is) s = execAll is t := by
  simp [execAll, h]

theorem execAll_append_of_next {is : List Instr} (h : execAll is s = .next t) (js : List Instr) :
    execAll (is ++ js) s = execAll js t := by
  induction is generalizing s with
  | nil => cases h; rfl
  | cons i is ih =>
    cases hi : exec i s with
    | next u =>
      rw [execAll_cons_of_next hi] at h
      rw [List.cons_append, execAll_cons_of_next hi, ih h]
    | fault f => simp [execAll, hi] at h
    | refused r => simp [execAll, hi] at h

theorem convert_false_cons (b : Word) (bs : List Word) :
    convert false (b :: bs) = .quant 0 b :: convert false bs := rfl

theorem convert_false_append (as bs : List Word) :
    convert false (as ++ bs) = convert false as ++ convert false bs :=
  List.map_append

end Sys2Proof.Machine
end

section
/-! O50. Both windows hold the values of the last sixteen samples, and before them the earlier contents (R11, R25). -/

namespace Sys2Proof.Machine

variable {s t u : State}

/-- The windows of `t` are those of `s` moved `n` places older, whatever stands in the `n` most recent places (R11). -/
def MovedOlder (n : Nat) (s t : State) : Prop :=
  ∀ (k : Nat) (hk : k + n < 16), t.rwin[k + n] = s.rwin[k] ∧ t.ewin[k + n] = s.ewin[k]

theorem movedOlder_zero (s : State) : MovedOlder 0 s s := fun _ _ => ⟨rfl, rfl⟩

theorem MovedOlder.trans {m n : Nat} (hm : MovedOlder m s u) (hn : MovedOlder n u t) : MovedOlder (m + n) s t := by
  intro k hk
  obtain ⟨hrm, hem⟩ := hm k (by omega)
  obtain ⟨hrn, hen⟩ := hn (k + m) (by omega)
  simp only [← Nat.add_assoc]
  exact ⟨hrn.trans hrm, hen.trans hem⟩

/-- One quantization pushes one element into each window (R23, R24). -/
theorem movedOlder_quantized (s : State) (b : Word) (q : Trace) : MovedOlder 1 s (s.quantized b q) := by
  intro k hk
  simp

/-- A scalar conversion from a legal state ends in a legal state whose windows moved one place a sample (R25). -/
theorem execAll_convert_movedOlder (samples : List Word) (h : s.Legal) :
    ∃ t, execAll (convert false samples) s = .next t ∧ t.Legal ∧ MovedOlder samples.length s t := by
  induction samples generalizing s with
  | nil => exact ⟨s, rfl, h, movedOlder_zero s⟩
  | cons b bs ih =>
    obtain ⟨q, -, hexec, hlegal⟩ := exec_quant_of_legal b h
    obtain ⟨t, hrest, ht, hmoved⟩ := ih hlegal
    refine ⟨t, ?_, ht, ?_⟩
    · rw [convert_false_cons, execAll_cons_of_next hexec, hrest]
    · rw [List.length_cons, Nat.add_comm]
      exact (movedOlder_quantized s b q).trans hmoved

/-- The state before the last `k` samples of a conversion, whose windows the `k` samples moved `k` places older. -/
theorem exists_movedOlder_of_take {samples : List Word} (h : s.Legal)
    (hrun : execAll (convert false samples) s = .next t) {k : Nat} (hk : k ≤ samples.length) :
    ∃ u, execAll (convert false (samples.take (samples.length - k))) s = .next u ∧ MovedOlder k u t := by
  obtain ⟨u, hu, hlegal, -⟩ := execAll_convert_movedOlder (samples.take (samples.length - k)) h
  obtain ⟨t', ht', -, hmoved⟩ := execAll_convert_movedOlder (samples.drop (samples.length - k)) hlegal
  have hwhole : execAll (convert false samples) s = .next t' := by
    rw [← List.take_append_drop (samples.length - k) samples, convert_false_append,
      execAll_append_of_next hu, ht']
  obtain rfl : t = t' := by simpa [hrun] using hwhole
  rw [List.length_drop, Nat.sub_sub_self hk] at hmoved
  exact ⟨u, hu, hmoved⟩

end Sys2Proof.Machine

namespace Sys2Proof.Claims

open Sys2Proof.Machine

theorem zeros_getElem (w k : Nat) (hk : k < 16) : (zeros w)[k] = 0 := by simp [zeros]

end Sys2Proof.Claims

open Sys2Proof.Machine Sys2Proof.Claims

/-- Settles O50. The `k` last samples move the most recent elements they found to place `k`, and `n` samples move the
element at place `k - n` to place `k`. -/
theorem windowsHoldTheLastSixteen : Obligations.WindowsHoldTheLastSixteen := by
  intro s samples hs
  obtain ⟨t, hrun, -, hmoved⟩ := execAll_convert_movedOlder samples hs
  refine ⟨t, hrun, fun k => ⟨fun hk => ?_, fun hk => ?_⟩⟩
  · obtain ⟨u, hu, hback⟩ := exists_movedOlder_of_take hs hrun hk.le
    obtain ⟨hr, he⟩ := hback 0 (by omega)
    simp only [Nat.zero_add] at hr he
    exact ⟨u, hu, hr, he⟩
  · obtain ⟨hr, he⟩ := hmoved (k - samples.length) (by omega)
    simp only [Nat.sub_add_cancel hk] at hr he
    have hlt : k.val - samples.length < 16 := by omega
    refine ⟨?_, ?_, fun hrz hez => ⟨hr.trans ?_, he.trans ?_⟩⟩
    · rw [getElem!_pos s.rwin _ hlt]; exact hr
    · rw [getElem!_pos s.ewin _ hlt]; exact he
    · simp only [hrz, zeros_getElem]
    · simp only [hez, zeros_getElem]

end

section
/-! SUPPORT. The state after reset, and what each part of a command that writes a register keeps legal (R26, R28, R35,
R222, R250). -/

namespace Sys2Proof.Machine

variable {s : State}

/-- A cleared RWIN is in range (R23). -/
theorem zeroWindow_ne_rwinNever (k : Fin 16) : (zeroWindow 17)[k] ≠ rwinNever := by
  rw [Fin.getElem_fin, zeroWindow_getElem]
  decide

theorem legal_reset : State.reset.Legal :=
  ⟨by decide, zeroWindow_ne_rwinNever, by decide, by decide, by decide⟩

theorem legal_hostReset (s : State) (rest : List PortEvent) : (s.hostReset rest).Legal := legal_reset

theorem legal_startSession (seed : Word) (h : s.Legal) : (s.startSession seed).Legal := by
  obtain ⟨-, -, hcoef, hcfg, hstatus⟩ := h
  refine ⟨?_, zeroWindow_ne_rwinNever, hcoef, hcfg, hstatus⟩
  rw [State.startSession_lfsr]
  split
  · decide
  · assumption

theorem legal_writeCoef (idx : BitVec 4) {bits : Word} (hbits : f32IsFinite bits = true) (h : s.Legal) :
    (s.writeCoef idx bits).Legal := by
  obtain ⟨hlfsr, hrwin, hcoef, hcfg, hstatus⟩ := h
  refine ⟨hlfsr, hrwin, fun k => ?_, hcfg, hstatus⟩
  rw [State.writeCoef_coef, Fin.getElem_fin, Vector.getElem_set]
  split
  · exact hbits
  · exact hcoef k

/-- CFG's fields stand at the places of R28 and R74 in the 28 bits that a CFG command writes. -/
theorem cfgBody_fields (fast : BitVec 1) (rsvHi : BitVec 3) (fixm1 : BitVec 4) (rsvLo : BitVec 3) (decor : BitVec 1)
    (dsel esel : BitVec 8) :
    let low := cfgBody fast rsvHi fixm1 rsvLo decor dsel esel
    low.extractLsb' 27 1 = fast ∧ low.extractLsb' 24 3 = rsvHi ∧ low.extractLsb' 20 4 = fixm1 ∧
      low.extractLsb' 17 3 = rsvLo ∧ low.extractLsb' 16 1 = decor ∧ low.extractLsb' 8 8 = dsel ∧
      low.extractLsb' 0 8 = esel := by
  simp only [cfgBody, BitVec.extractLsb'_append_eq_of_le, BitVec.extractLsb'_append_eq_right,
    BitVec.extractLsb'_eq_self, Nat.reduceLeDiff, Nat.reduceSub, and_self]

theorem cfgLegal_cfgBody {fast decor : BitVec 1} {fixm1 : BitVec 4} {dsel esel : BitVec 8}
    (hesel : selectorLegal esel = true) (hdsel : selectorLegal dsel = true)
    (hfast : fast = 1 → fastAllowed fixm1 decor dsel esel = true) :
    CfgLegal ((cfgBody fast 0 fixm1 0 decor dsel esel).setWidth 32) := by
  obtain ⟨eFast, eHi, eFixm1, eLo, eDecor, eDsel, eEsel⟩ := cfgBody_fields fast 0 fixm1 0 decor dsel esel
  have high (low : BitVec 28) : (low.setWidth 32).extractLsb' 28 4 = 0 := by
    ext k hk
    simp
  refine ⟨high _, ?_⟩
  simp only [BitVec.extractLsb'_setWidth_of_le (w' := 32) (b := cfgBody fast 0 fixm1 0 decor dsel esel), Nat.reduceAdd,
    Nat.reduceLeDiff, eFast, eHi, eFixm1, eLo, eDecor, eDsel, eEsel]
  exact ⟨trivial, trivial, hesel, hdsel, hfast⟩

theorem legal_writeCfg {fast decor : BitVec 1} {fixm1 : BitVec 4} {dsel esel : BitVec 8}
    (hesel : selectorLegal esel = true) (hdsel : selectorLegal dsel = true)
    (hfast : fast = 1 → fastAllowed fixm1 decor dsel esel = true) (h : s.Legal) :
    (s.writeCfg (cfgBody fast 0 fixm1 0 decor dsel esel)).Legal := by
  obtain ⟨hlfsr, hrwin, hcoef, -, hstatus⟩ := h
  exact ⟨hlfsr, hrwin, hcoef, cfgLegal_cfgBody hesel hdsel hfast, hstatus⟩

/-- R222's codes are 1 to 7. -/
theorem RejectCode.code_fields (code : RejectCode) :
    code.code.extractLsb' 9 23 = 0 ∧ code.code.extractLsb' 3 1 = 0 ∧ code.code.extractLsb' 0 4 ≠ 0 := by
  cases code <;> decide

/-- A rejection leaves the new code in ERRCODE, beside ERR (R221, R233). -/
theorem statusLegal_rejectedStatus (code : RejectCode) {status : Word} (h : StatusLegal status) :
    StatusLegal (rejectedStatus code status) := by
  obtain ⟨hHigh, hBit3, -⟩ := h
  obtain ⟨cHigh, cBit3, cCode⟩ := code.code_fields
  refine ⟨?_, ?_, ?_⟩
  · simp [rejectedStatus, BitVec.extractLsb'_or, BitVec.extractLsb'_and, hHigh, cHigh, errBit]
  · simp [rejectedStatus, BitVec.extractLsb'_or, BitVec.extractLsb'_and, hBit3, cBit3, errBit]
  · have hcode : (rejectedStatus code status).extractLsb' 0 4 = code.code.extractLsb' 0 4 := by
      simp [rejectedStatus, BitVec.extractLsb'_or, BitVec.extractLsb'_and, errBit, errCodeMask]
    have herr : (rejectedStatus code status).getLsbD 4 = true := by
      simp [rejectedStatus, errBit]
    rw [hcode, herr]
    exact iff_of_true rfl cCode

theorem legal_reject (code : RejectCode) (h : s.Legal) : (s.reject code).Legal := by
  obtain ⟨hlfsr, hrwin, hcoef, hcfg, hstatus⟩ := h
  exact ⟨hlfsr, hrwin, hcoef, hcfg, statusLegal_rejectedStatus code hstatus⟩

theorem legal_clearStatus (h : s.Legal) : s.clearStatus.Legal := by
  obtain ⟨hlfsr, hrwin, hcoef, hcfg, -⟩ := h
  exact ⟨hlfsr, hrwin, hcoef, hcfg, show StatusLegal 0 by decide⟩

end Sys2Proof.Machine
end

section
/-! SUPPORT. Everything a command can do when it answers a next state, over all commands at once: it is rejected, or it is
accepted and leaves one of the states below (R72, R220). -/

namespace Sys2Proof.Machine

variable {s t u : State}

/-- Command `i`, accepted in state `s`, does its work to leave `u` and answers OK with `data`: the state after the command
is `u.respond data`. -/
inductive State.Accepts (s : State) : Instr → State → List Word → Prop
  /-- R190 -/
  | nop : s.Accepts (.nop 0) s []
  /-- R192 -/
  | init (seed : Word) : s.Accepts (.init 0 seed) (s.startSession seed) []
  /-- R194 -/
  | cfg (fast : BitVec 1) (fixm1 : BitVec 4) (decor : BitVec 1) (dsel esel : BitVec 8)
      (hesel : selectorLegal esel = true) (hdsel : selectorLegal dsel = true)
      (hfast : fast = 1 → fastAllowed fixm1 decor dsel esel = true) :
      s.Accepts (.cfg fast 0 fixm1 0 decor dsel esel) (s.writeCfg (cfgBody fast 0 fixm1 0 decor dsel esel)) []
  /-- R196 -/
  | wcoef (idx : BitVec 4) (bits : Word) (hbits : f32IsFinite bits = true) :
      s.Accepts (.wcoef 0 idx bits) (s.writeCoef idx bits) []
  /-- R168 -/
  | quant (b : Word) (q : Trace) (hq : s.Traces q) :
      s.Accepts (.quant 0 b) (s.quantized b q) [sampleWord (s.output b q)]
  /-- R171 -/
  | quant4 (b0 b1 b2 b3 : Word) (l : Lanes b0 b1 b2 b3 s) (hfast : s.fast = true) (hl : l.Valid) :
      s.Accepts (.quant4 0 b0 b1 b2 b3) l.s4 l.words
  /-- R200 -/
  | rdreg (ridx : BitVec 8) (r : RegName) (v : Word) (hr : RegName.ofIndex ridx = some r) (hv : s.readReg r = .ok v) :
      s.Accepts (.rdreg 0 ridx) s [v]
  /-- R202 -/
  | clrst : s.Accepts (.clrst 0) s.clearStatus []

/-- Everything a command can do: the rejection with some code, or its work as an accepted command. -/
theorem exec_cases {i : Instr} (h : exec i s = .next t) :
    (∃ code, t = s.reject code) ∨ ∃ u data, s.Accepts i u data ∧ t = u.respond data := by
  cases i with
  | nop rsv =>
    obtain ⟨-, rfl⟩ | ⟨rfl, rfl⟩ := execNop_cases h
    · exact .inl ⟨_, rfl⟩
    · exact .inr ⟨_, _, .nop, rfl⟩
  | init rsv seed =>
    obtain ⟨-, rfl⟩ | ⟨rfl, rfl⟩ := execInit_cases h
    · exact .inl ⟨_, rfl⟩
    · exact .inr ⟨_, _, .init seed, rfl⟩
  | cfg fast rsvHi fixm1 rsvLo decor dsel esel =>
    obtain hrej | ⟨rfl, rfl, hesel, hdsel, hfast, rfl⟩ := execCfg_cases h
    · exact .inl hrej
    · exact .inr ⟨_, _, .cfg fast fixm1 decor dsel esel hesel hdsel hfast, rfl⟩
  | wcoef rsv idx bits =>
    obtain hrej | ⟨rfl, hbits, rfl⟩ := execWcoef_cases h
    · exact .inl hrej
    · exact .inr ⟨_, _, .wcoef idx bits hbits, rfl⟩
  | quant rsv b =>
    obtain ⟨-, rfl⟩ | ⟨rfl, q, hq, rfl⟩ := execQuant_cases h
    · exact .inl ⟨_, rfl⟩
    · exact .inr ⟨_, _, .quant b q hq, rfl⟩
  | quant4 rsv b0 b1 b2 b3 =>
    obtain hrej | ⟨rfl, hfast, l, hl, rfl⟩ := execQuant4_cases h
    · exact .inl hrej
    · exact .inr ⟨_, _, .quant4 b0 b1 b2 b3 l hfast hl, rfl⟩
  | rdreg rsv ridx =>
    obtain hrej | ⟨rfl, r, v, hr, hv, rfl⟩ := execRdreg_cases h
    · exact .inl hrej
    · exact .inr ⟨_, _, .rdreg ridx r v hr hv, rfl⟩
  | clrst rsv =>
    obtain ⟨-, rfl⟩ | ⟨rfl, rfl⟩ := execClrst_cases h
    · exact .inl ⟨_, rfl⟩
    · exact .inr ⟨_, _, .clrst, rfl⟩

/-- What one quantization keeps, the four lanes of a QUANT4 keep (R171). -/
theorem Lanes.s4_induction {P : State → Prop} {b0 b1 b2 b3 : Word} (l : Lanes b0 b1 b2 b3 s) (h0 : P s)
    (hstep : ∀ (u : State) (b : Word) (q : Trace), P u → P (u.quantized b q)) : P l.s4 :=
  hstep _ _ _ (hstep _ _ _ (hstep _ _ _ (hstep _ _ _ h0)))

end Sys2Proof.Machine
end

section
/-! O11 to O13. The reset state is legal, and every step keeps the state legal (R22, R23, R26, R28, R35, R250). -/

namespace Sys2Proof.Machine

variable {s t u : State}

theorem legal_of_accepts {i : Instr} {data : List Word} (h : s.Legal) (ha : s.Accepts i u data) : u.Legal := by
  cases ha with
  | nop => exact h
  | init seed => exact legal_startSession seed h
  | cfg fast fixm1 decor dsel esel hesel hdsel hfast => exact legal_writeCfg hesel hdsel hfast h
  | wcoef idx bits hbits => exact legal_writeCoef idx hbits h
  | quant b q hq => exact legal_quantized b q h
  | quant4 b0 b1 b2 b3 l hfast hl => exact l.s4_induction h fun _ b q => legal_quantized b q
  | rdreg ridx r v hr hv => exact h
  | clrst => exact legal_clearStatus h

theorem legal_of_exec {i : Instr} (h : s.Legal) (he : exec i s = .next t) : t.Legal := by
  obtain ⟨code, rfl⟩ | ⟨u, data, ha, rfl⟩ := exec_cases he
  · exact legal_reject code h
  · exact show u.Legal from legal_of_accepts h ha

end Sys2Proof.Machine

open Sys2Proof.Machine

/-- Settles O13. A step is a command, the rejection of a reserved opcode, a reset or a wait, and each keeps the state
legal. -/
theorem stepKeepsLegal : Obligations.StepKeepsLegal := by
  intro s t hs hstep
  obtain ⟨i, rest, -, he⟩ | ⟨rest, -, he⟩ | ⟨rest, -, he⟩ | ⟨-, he⟩ := step_cases hstep
  · exact legal_of_exec (s := s.withInput rest) hs he.symm
  · cases he; exact legal_reject (s := s.withInput rest) .illegalOpcode hs
  · cases he; exact legal_hostReset s rest
  · cases he; exact hs

/-- Settles O12. -/
theorem resetIsLegal : Obligations.ResetIsLegal := legal_reset

/-- Settles O11. -/
theorem resetValues : Obligations.ResetValues :=
  ⟨rfl, fun k => ⟨zeroWindow_getElem k.val k.isLt, zeroWindow_getElem k.val k.isLt⟩, rfl, by decide, rfl, rfl, rfl, rfl⟩

end

section
/-! O17, O18. The work of an accepted command other than CLRST only adds flags to STATUS, and a rejection writes ERR and
ERRCODE alone (R36, R37, R221, R231). -/

namespace Sys2Proof.Machine

variable {s t u : State}

theorem or_and_of_and_eq_zero (x : Word) {y m : Word} (hy : y &&& m = 0) : (x ||| y) &&& m = x &&& m := by
  rw [BitVec.and_or_distrib_right, hy]
  exact BitVec.or_zero

/-- STATUS of `t` is that of `s` with sample flags added; ERR and ERRCODE, bits 4:0, are as they were (R35, R231). -/
def State.AddsFlags (s t : State) : Prop := ∃ bits, bits &&& 0x1F#32 = 0 ∧ t.status = s.status ||| bits

theorem State.AddsFlags.of_status_eq (h : t.status = s.status) : s.AddsFlags t :=
  ⟨0, by decide, by rw [h]; exact BitVec.or_zero.symm⟩

theorem State.AddsFlags.raise {bits : Word} (h : s.AddsFlags t) (hb : bits &&& 0x1F#32 = 0) (c : Bool) :
    s.AddsFlags (t.raise bits c) := by
  obtain ⟨old, hold, hstatus⟩ := h
  cases c with
  | false => exact ⟨old, hold, hstatus⟩
  | true =>
    refine ⟨old ||| bits, (or_and_of_and_eq_zero old hb).trans hold, ?_⟩
    rw [State.raise_status, if_pos rfl, hstatus, BitVec.or_assoc]

/-- A fill leaves STATUS alone (R105). -/
theorem State.AddsFlags.filled (h : s.AddsFlags t) : s.AddsFlags t.filled := h

theorem State.AddsFlags.storeResidual (h : s.AddsFlags t) (r : Int) : s.AddsFlags (t.storeResidual r) := by
  obtain ⟨bits, hbits, hstatus⟩ := h.raise (bits := satIntBit) (by decide) (r != sat64 r)
  exact ⟨bits, hbits, hstatus⟩

/-- A quantization adds NAN_IN, SAT_INT, SAT_ACC and SAT_OUT at most (R161). -/
theorem State.AddsFlags.quantized (h : s.AddsFlags t) (b : Word) (q : Trace) : s.AddsFlags (t.quantized b q) := by
  have shaped := (h.raise (bits := nanInBit) (by decide) (f32IsNan b)).raise (bits := satIntBit) (by decide)
    (q.e != sat64 q.e)
  have summed := shaped.raise (bits := satAccBit) (by decide) (preSumClamped (scaleSample t.fixbits b) (sat64 q.e))
  have dithered := summed.filled.raise (bits := satIntBit) (by decide) (q.d != sat64 q.d)
  exact (dithered.storeResidual _).raise (by decide) _

theorem addsFlags_of_accepts {i : Instr} {data : List Word} (ha : s.Accepts i u data) (hi : i ≠ .clrst 0) :
    s.AddsFlags u := by
  have refl : s.AddsFlags s := .of_status_eq rfl
  cases ha with
  | quant b q hq => exact refl.quantized b q
  | quant4 b0 b1 b2 b3 l hfast hl => exact l.s4_induction refl fun _ b q h => h.quantized b q
  | clrst => exact absurd rfl hi
  | _ => exact .of_status_eq rfl

/-- The bits of `m` that `a` sets stay set under a write that keeps all of `m`. -/
theorem and_and_and_or_eq {m keep : Word} (hkeep : m &&& keep = m) (a new : Word) :
    a &&& m &&& (a &&& keep ||| new) = a &&& m := by
  ext k hk
  have hbit : (m[k] && keep[k]) = m[k] := by rw [← BitVec.getElem_and, hkeep]
  simp only [BitVec.getElem_and, BitVec.getElem_or]
  grind

theorem sticky_of_addsFlags (h : s.AddsFlags t) : s.status &&& 0x1F0#32 &&& t.status = s.status &&& 0x1F0#32 := by
  obtain ⟨bits, -, hstatus⟩ := h
  have hkeep := and_and_and_or_eq (m := 0x1F0) (keep := BitVec.allOnes 32) (by decide) s.status bits
  rwa [BitVec.and_allOnes, ← hstatus] at hkeep

theorem sticky_rejectedStatus (code : RejectCode) (status : Word) :
    status &&& 0x1F0#32 &&& rejectedStatus code status = status &&& 0x1F0#32 := by
  rw [rejectedStatus, BitVec.or_assoc]
  exact and_and_and_or_eq (by decide) status _

theorem errBits_of_addsFlags (h : s.AddsFlags t) : t.status &&& 0x1F#32 = s.status &&& 0x1F#32 := by
  obtain ⟨bits, hbits, hstatus⟩ := h
  rw [hstatus, or_and_of_and_eq_zero s.status hbits]

end Sys2Proof.Machine

open Sys2Proof.Machine

/-- Settles O17. A rejection clears ERRCODE alone, and accepted work only adds flags. -/
theorem stickyBitsStay : Obligations.StickyBitsStay := by
  intro i s t he hi
  obtain ⟨code, rfl⟩ | ⟨u, data, ha, rfl⟩ := exec_cases he
  · exact sticky_rejectedStatus code s.status
  · exact sticky_of_addsFlags (t := u) (addsFlags_of_accepts ha hi)

/-- Settles O18. An OK response shows that the command was not rejected, and accepted work adds no bit of ERR or ERRCODE. -/
theorem acceptedCommandKeepsErrCode : Obligations.AcceptedCommandKeepsErrCode := by
  intro i s t data he hok hi
  obtain ⟨code, rfl⟩ | ⟨u, data', ha, rfl⟩ := exec_cases he
  · simp at hok
  · exact errBits_of_addsFlags (t := u) (addsFlags_of_accepts ha hi)

end

section
/-! O20. Each element is written by its own commands alone (R22, R23, R24, R26, R28, R110, R201). -/

namespace Sys2Proof.Machine

variable {s t u : State}

/-- The elements that no quantization writes: COEF, CFG and the input (R26, R28). -/
def State.SameSetup (s t : State) : Prop := t.coef = s.coef ∧ t.cfg = s.cfg ∧ t.input = s.input

theorem Lanes.sameSetup {b0 b1 b2 b3 : Word} (l : Lanes b0 b1 b2 b3 s) : s.SameSetup l.s4 :=
  l.s4_induction (P := s.SameSetup) ⟨rfl, rfl, rfl⟩ fun _ _ _ h => h

theorem session_of_accepts {i : Instr} {data : List Word} (ha : s.Accepts i u data) (hi : ¬ Claims.WritesSession i) :
    u.lfsr = s.lfsr ∧ u.rwin = s.rwin ∧ u.ewin = s.ewin := by
  cases ha with
  | init seed => exact absurd trivial hi
  | quant b q hq => exact absurd trivial hi
  | quant4 b0 b1 b2 b3 l hfast hl => exact absurd trivial hi
  | _ => exact ⟨rfl, rfl, rfl⟩

theorem coef_of_accepts {i : Instr} {data : List Word} (ha : s.Accepts i u data) (hne : u.coef ≠ s.coef) :
    ∃ idx bits, i = .wcoef 0 idx bits := by
  cases ha with
  | wcoef idx bits hbits => exact ⟨idx, bits, rfl⟩
  | quant4 b0 b1 b2 b3 l hfast hl =>
    obtain ⟨hcoef, -, -⟩ := l.sameSetup
    exact absurd hcoef hne
  | _ => exact absurd rfl hne

theorem cfg_of_accepts {i : Instr} {data : List Word} (ha : s.Accepts i u data) (hne : u.cfg ≠ s.cfg) :
    ∃ fast fixm1 decor dsel esel, i = .cfg fast 0 fixm1 0 decor dsel esel := by
  cases ha with
  | cfg fast fixm1 decor dsel esel hesel hdsel hfast => exact ⟨fast, fixm1, decor, dsel, esel, rfl⟩
  | quant4 b0 b1 b2 b3 l hfast hl =>
    obtain ⟨-, hcfg, -⟩ := l.sameSetup
    exact absurd hcfg hne
  | _ => exact absurd rfl hne

theorem input_of_accepts {i : Instr} {data : List Word} (ha : s.Accepts i u data) : u.input = s.input := by
  cases ha with
  | quant4 b0 b1 b2 b3 l hfast hl =>
    obtain ⟨-, -, hinput⟩ := l.sameSetup
    exact hinput
  | _ => rfl

end Sys2Proof.Machine

open Sys2Proof.Machine

/-- Settles O20. A rejection writes none of the elements; accepted work is taken element by element. -/
theorem onlyTheirCommandsWrite : Obligations.OnlyTheirCommandsWrite := by
  intro i s t he
  obtain ⟨code, rfl⟩ | ⟨u, data, ha, rfl⟩ := exec_cases he
  · exact ⟨fun _ => ⟨rfl, rfl, rfl⟩, fun h => absurd rfl h, fun h => absurd rfl h, rfl⟩
  · exact ⟨session_of_accepts (u := u) ha, coef_of_accepts (u := u) ha, cfg_of_accepts (u := u) ha,
      input_of_accepts (u := u) ha⟩

end

section
/-! O27, O28. One step of the generator, and what the steps of a raw draw leave of the draw before (R22, R101, R102). -/

namespace Sys2Proof.Machine

/-- The successor holds bits 30:0, and bit 0 of it tells bit 31. -/
theorem lfsrStep_injective : Function.Injective lfsrStep := by
  intro L M h
  have low {k : Nat} (hk : k < 31) : L.getLsbD k = M.getLsbD k := by
    rw [← getLsbD_lfsrStep_succ L (by omega), h, getLsbD_lfsrStep_succ M (by omega)]
  have high : L.getLsbD 31 = M.getLsbD 31 := by
    have hfb : (lfsrStep L).getLsbD 0 = (lfsrStep M).getLsbD 0 := by rw [h]
    rw [getLsbD_lfsrStep_zero, getLsbD_lfsrStep_zero, low (k := 21) (by omega), low (k := 1) (by omega),
      low (k := 0) (by omega)] at hfb
    simpa using hfb
  refine BitVec.eq_of_getLsbD_eq fun k hk => ?_
  obtain hk' | rfl : k < 31 ∨ k = 31 := by omega
  · exact low hk'
  · exact high

theorem lfsrStep_eq_zero_iff (L : Word) : lfsrStep L = 0 ↔ L = 0 :=
  ⟨fun h => by_contra fun hL => lfsrStep_ne_zero hL h, fun h => by rw [h]; rfl⟩

/-- `n` steps move each bit `n` places up (R101). -/
theorem getLsbD_lfsrSteps_add (n : Nat) (L : Word) {k : Nat} (hk : k + n < 32) :
    (lfsrSteps n L).getLsbD (k + n) = L.getLsbD k := by
  induction n generalizing L k with
  | zero => rfl
  | succ n ih =>
    rw [lfsrSteps_succ, ← Nat.add_assoc, Nat.add_right_comm, ih _ (by omega), getLsbD_lfsrStep_succ L (by omega)]

end Sys2Proof.Machine

open Sys2Proof.Machine

/-- Settles O27. -/
theorem lfsrStepIsAPermutation : Obligations.LfsrStepIsAPermutation :=
  ⟨fun L _ hk => getLsbD_lfsrStep_succ L (by omega), getLsbD_lfsrStep_zero, fun _ _ h => lfsrStep_injective h,
    lfsrStep_eq_zero_iff⟩

/-- Settles O28. The draw is the low half as it stands, and its sixteen steps moved the old low half to the high half. -/
theorem rawDrawKeepsTheLastTwoDraws : Obligations.RawDrawKeepsTheLastTwoDraws := by
  intro L
  constructor
  · rw [rawDraw_fst, rawDraw_snd]
    exact (BitVec.setWidth_eq_extractLsb' (by decide)).symm
  · refine BitVec.eq_of_getLsbD_eq fun k hk => ?_
    have hmoved := getLsbD_lfsrSteps_add 16 L (k := k) (by omega)
    simp only [rawDraw_snd, BitVec.getLsbD_extractLsb', hk, decide_true, Bool.true_and, Nat.zero_add]
    rw [Nat.add_comm, hmoved]

end

section
/-! O32. In a QUANT with DSEL = 0, LFSR and RWIN reach neither its response nor another element (R41, R106, R138). -/

namespace Sys2Proof.Machine

variable {s : State} {q : Trace}

/-- Selector 0 is 0 over every window (R138). -/
theorem filterExact_zero (coef : Window 32) (W : Lookback) : filterExact coef 0 W = .ok 0 := rfl

theorem trace_d_of_dsel_zero (hdsel : s.dsel = 0) (hq : s.Traces q) : q.d = 0 := by
  obtain ⟨-, -, -, hd⟩ := hq
  rw [hdsel, filterExact_zero] at hd
  exact (Except.ok.inj hd).symm

/-- `u` is `s` with other contents of LFSR and RWIN, or the same. -/
def State.AgreesButGenerator (s u : State) : Prop := ∃ L R, u = { s with lfsr := L, rwin := R }

namespace State.AgreesButGenerator
variable {u : State}

theorem fixbits (h : s.AgreesButGenerator u) : u.fixbits = s.fixbits := by
  obtain ⟨L, R, rfl⟩ := h
  rfl

theorem filterExact_esel (h : s.AgreesButGenerator u) :
    filterExact u.coef u.esel (signedView u.ewin) = filterExact s.coef s.esel (signedView s.ewin) := by
  obtain ⟨L, R, rfl⟩ := h
  rfl

theorem output (h : s.AgreesButGenerator u) (b : Word) (q : Trace) : u.output b q = s.output b q := by
  unfold State.output
  rw [h.fixbits]

theorem raise (h : s.AgreesButGenerator u) (bits : Word) (c : Bool) :
    (s.raise bits c).AgreesButGenerator (u.raise bits c) := by
  obtain ⟨L, R, rfl⟩ := h
  exact ⟨L, R, rfl⟩

theorem storeResidual (h : s.AgreesButGenerator u) (r : Int) :
    (s.storeResidual r).AgreesButGenerator (u.storeResidual r) := by
  obtain ⟨L, R, rfl⟩ := h
  exact ⟨L, R, rfl⟩

theorem filled (h : s.AgreesButGenerator u) : s.filled.AgreesButGenerator u.filled := by
  obtain ⟨L, R, rfl⟩ := h
  exact ⟨(fillValue s.decor L).2, push R (BitVec.ofInt 17 (fillValue s.decor L).1), rfl⟩

/-- With its two filter values given, a quantization takes LFSR and RWIN to LFSR and RWIN alone (R41, R161). -/
theorem quantized (h : s.AgreesButGenerator u) (b : Word) (q : Trace) :
    (s.quantized b q).AgreesButGenerator (u.quantized b q) := by
  unfold State.quantized
  rw [h.fixbits]
  exact ((((((h.raise _ _).raise _ _).raise _ _).filled.raise _ _).storeResidual _).raise _ _)

end State.AgreesButGenerator

/-- With DSEL = 0 a sample's two filters have the same values whatever LFSR and RWIN hold: the one reads EWIN, and the other
is 0. -/
theorem trace_unique_of_dsel_zero {u : State} {q' : Trace} (h : s.AgreesButGenerator u) (hs : s.dsel = 0)
    (hu : u.dsel = 0) (hq : s.Traces q) (hq' : u.Traces q') : q' = q := by
  have hd : q'.d = q.d := (trace_d_of_dsel_zero hu hq').trans (trace_d_of_dsel_zero hs hq).symm
  obtain ⟨he, -⟩ := hq
  obtain ⟨he', -⟩ := hq'
  rw [h.filterExact_esel, he] at he'
  exact congrArg₂ Trace.mk (Except.ok.inj he').symm hd

end Sys2Proof.Machine

open Sys2Proof.Machine

/-- Settles O32. Both cores quantize with the same two filter values, and then differ in LFSR and RWIN alone. -/
theorem withoutDitherTheGeneratorIsUnseen : Obligations.WithoutDitherTheGeneratorIsUnseen := by
  intro s b L R hs hs' hdsel
  have hagree : s.AgreesButGenerator { s with lfsr := L, rwin := R } := ⟨L, R, rfl⟩
  obtain ⟨q, hq, ht, -⟩ := exec_quant_of_legal b hs
  obtain ⟨q', hq', hu, -⟩ := exec_quant_of_legal b hs'
  obtain rfl : q' = q := trace_unique_of_dsel_zero hagree hdsel hdsel hq hq'
  obtain ⟨L', R', hquant⟩ := hagree.quantized b q'
  rw [hagree.output, hquant] at hu
  exact ⟨_, _, ht, hu, rfl⟩

end

section
/-! O19. STATUS is an input to no command but RDREG of STATUS (R37, R231): two runs of the model's operations on states that
differ in STATUS alone. -/

namespace Sys2Proof.Machine

variable {s u : State}

/-- `u` is `s` with another STATUS, or the same. -/
def State.AgreesButStatus (s u : State) : Prop := ∃ status, u = { s with status := status }

/-- `u` holds what `s` holds in all that the commands read besides STATUS. -/
structure State.ReadsAlike (s u : State) : Prop where
  coef : u.coef = s.coef
  ewin : u.ewin = s.ewin
  esel : u.esel = s.esel
  dsel : u.dsel = s.dsel
  decor : u.decor = s.decor
  fixbits : u.fixbits = s.fixbits
  fast : u.fast = s.fast
  readLfsr : u.readLfsr = s.readLfsr
  readRwin : u.readRwin = s.readRwin

/-- Two runs of one piece of work end alike: both with results that `Same` relates, or both with the same fault. -/
inductive EndAlike {α : Type} (Same : α → α → Prop) : Except Fault α → Except Fault α → Prop
  | ok {x y : α} (h : Same x y) : EndAlike Same (.ok x) (.ok y)
  | error (f : Fault) : EndAlike Same (.error f) (.error f)

theorem EndAlike.bind {α β : Type} {Same : α → α → Prop} {Same' : β → β → Prop} {r r' : Except Fault α}
    {k k' : α → Except Fault β} (h : EndAlike Same r r') (hk : ∀ x y, Same x y → EndAlike Same' (k x) (k' y)) :
    EndAlike Same' (r >>= k) (r' >>= k') := by
  cases h with
  | ok hxy => exact hk _ _ hxy
  | error f => exact .error f

theorem EndAlike.refl {α : Type} (r : Except Fault α) : EndAlike Eq r r := by
  cases r with
  | ok x => exact .ok rfl
  | error f => exact .error f

/-- A value and a state: the same value, and states that agree on all but STATUS. -/
def SameValue {α : Type} (x y : α × State) : Prop := y.1 = x.1 ∧ x.2.AgreesButStatus y.2

namespace State.AgreesButStatus

theorem raise (h : s.AgreesButStatus u) (bits : Word) (c : Bool) :
    (s.raise bits c).AgreesButStatus (u.raise bits c) := by
  obtain ⟨status, rfl⟩ := h
  exact ⟨_, rfl⟩

theorem storeResidual (h : s.AgreesButStatus u) (r : Int) :
    (s.storeResidual r).AgreesButStatus (u.storeResidual r) := by
  obtain ⟨status, rfl⟩ := h
  exact ⟨_, rfl⟩

theorem storeFill (h : s.AgreesButStatus u) (v : Int) (L : Word) :
    (s.storeFill v L).AgreesButStatus (u.storeFill v L) := by
  obtain ⟨status, rfl⟩ := h
  exact ⟨_, rfl⟩

theorem respond (h : s.AgreesButStatus u) (data : List Word) :
    (s.respond data).AgreesButStatus (u.respond data) := by
  obtain ⟨status, rfl⟩ := h
  exact ⟨_, rfl⟩

theorem reject (h : s.AgreesButStatus u) (code : RejectCode) :
    (s.reject code).AgreesButStatus (u.reject code) := by
  obtain ⟨status, rfl⟩ := h
  exact ⟨_, rfl⟩

theorem startSession (h : s.AgreesButStatus u) (seed : Word) :
    (s.startSession seed).AgreesButStatus (u.startSession seed) := by
  obtain ⟨status, rfl⟩ := h
  exact ⟨_, rfl⟩

theorem clearStatus (h : s.AgreesButStatus u) :
    (s.clearStatus).AgreesButStatus (u.clearStatus) := by
  obtain ⟨status, rfl⟩ := h
  exact ⟨_, rfl⟩

theorem writeCfg (h : s.AgreesButStatus u) (low : BitVec 28) :
    (s.writeCfg low).AgreesButStatus (u.writeCfg low) := by
  obtain ⟨status, rfl⟩ := h
  exact ⟨_, rfl⟩

theorem writeCoef (h : s.AgreesButStatus u) (idx : BitVec 4) (bits : Word) :
    (s.writeCoef idx bits).AgreesButStatus (u.writeCoef idx bits) := by
  obtain ⟨status, rfl⟩ := h
  exact ⟨_, rfl⟩

theorem reads (h : s.AgreesButStatus u) : s.ReadsAlike u := by
  obtain ⟨status, rfl⟩ := h
  exact ⟨rfl, rfl, rfl, rfl, rfl, rfl, rfl, rfl, rfl⟩

theorem filter (h : s.AgreesButStatus u) (code : BitVec 8) (W : Lookback) :
    EndAlike SameValue (s.filter code W) (u.filter code W) := by
  unfold State.filter
  rw [h.reads.coef]
  refine (EndAlike.refl _).bind ?_
  rintro y _ rfl
  exact .ok ⟨rfl, h.raise _ _⟩

theorem fill (h : s.AgreesButStatus u) : EndAlike State.AgreesButStatus s.fill u.fill := by
  unfold State.fill
  rw [h.reads.decor, h.reads.readLfsr]
  refine (EndAlike.refl _).bind ?_
  rintro L _ rfl
  exact .ok (h.storeFill _ _)

theorem dither (h : s.AgreesButStatus u) : EndAlike SameValue s.dither u.dither := by
  unfold State.dither
  refine h.fill.bind fun s u h => ?_
  rw [h.reads.dsel, h.reads.readRwin]
  refine (EndAlike.refl _).bind ?_
  rintro W _ rfl
  exact h.filter _ _

theorem errorTerm (h : s.AgreesButStatus u) : EndAlike SameValue s.errorTerm u.errorTerm := by
  unfold State.errorTerm
  rw [h.reads.ewin, h.reads.esel]
  exact h.filter _ _

theorem quantize (h : s.AgreesButStatus u) (b : Word) :
    EndAlike SameValue (Machine.quantize b s) (Machine.quantize b u) := by
  unfold Machine.quantize
  rw [h.reads.fixbits]
  refine (h.raise _ _).errorTerm.bind ?_
  rintro ⟨e, s₁⟩ ⟨_, u₁⟩ ⟨rfl, h₁⟩
  refine (h₁.raise _ _).dither.bind ?_
  rintro ⟨D, s₂⟩ ⟨_, u₂⟩ ⟨rfl, h₂⟩
  exact .ok ⟨rfl, (h₂.storeResidual _).raise _ _⟩

theorem readReg (h : s.AgreesButStatus u) {r : RegName} (hr : r ≠ .status) : u.readReg r = s.readReg r := by
  obtain ⟨status, rfl⟩ := h
  cases r with
  | status => exact absurd rfl hr
  | _ => rfl

end State.AgreesButStatus

/-- Two runs of a command end alike: next states that agree on all but STATUS, or the same fault. -/
def SameOutcome (o o' : Host.Outcome State Fault Refusal) : Prop :=
  (∀ t, o = .next t → ∃ v, t.AgreesButStatus v ∧ o' = .next v) ∧ (∀ f, o = .fault f → o' = .fault f)

theorem sameOutcome_next (h : s.AgreesButStatus u) : SameOutcome (.next s) (.next u) :=
  ⟨fun _ e => by cases e; exact ⟨u, h, rfl⟩, fun _ e => nomatch e⟩

theorem sameOutcome_fault (f : Fault) : SameOutcome (.fault f) (.fault f) :=
  ⟨fun _ e => (nomatch e), fun _ e => e⟩

theorem sameOutcome_outcomeOf {r r' : Except Fault State} (h : EndAlike State.AgreesButStatus r r') :
    SameOutcome (outcomeOf r) (outcomeOf r') := by
  cases h with
  | ok h => exact sameOutcome_next h
  | error f => exact sameOutcome_fault f

theorem ofIndex_eq_status {ridx : BitVec 8} (h : RegName.ofIndex ridx = some .status) : ridx = 0x01 := by
  refine BitVec.eq_of_toNat_eq ?_
  unfold RegName.ofIndex at h
  grind

/-- The checks that reject a command do not read STATUS: what is left is the work after the check (R220, R221). -/
theorem State.AgreesButStatus.ite_reject (h : s.AgreesButStatus u) {c : Prop} [Decidable c] {code : RejectCode}
    {o o' : Host.Outcome State Fault Refusal} (ho : ¬ c → SameOutcome o o') :
    SameOutcome (if c then .next (s.reject code) else o) (if c then .next (u.reject code) else o') := by
  split
  · exact sameOutcome_next (h.reject code)
  · exact ho ‹_›

theorem execQuant_sameOutcome (h : s.AgreesButStatus u) (rsv : BitVec 28) (b : Word) :
    SameOutcome (execQuant rsv b s) (execQuant rsv b u) := by
  refine h.ite_reject fun _ => sameOutcome_outcomeOf ((h.quantize b).bind ?_)
  rintro ⟨out, s₁⟩ ⟨_, u₁⟩ ⟨rfl, h₁⟩
  exact .ok (h₁.respond _)

theorem execQuant4_sameOutcome (h : s.AgreesButStatus u) (rsv : BitVec 28) (b0 b1 b2 b3 : Word) :
    SameOutcome (execQuant4 rsv b0 b1 b2 b3 s) (execQuant4 rsv b0 b1 b2 b3 u) := by
  unfold execQuant4
  rw [h.reads.fast]
  refine h.ite_reject fun _ => h.ite_reject fun _ => sameOutcome_outcomeOf ((h.quantize b0).bind ?_)
  rintro ⟨o0, s₁⟩ ⟨_, u₁⟩ ⟨rfl, h₁⟩
  refine (h₁.quantize b1).bind ?_
  rintro ⟨o1, s₂⟩ ⟨_, u₂⟩ ⟨rfl, h₂⟩
  refine (h₂.quantize b2).bind ?_
  rintro ⟨o2, s₃⟩ ⟨_, u₃⟩ ⟨rfl, h₃⟩
  refine (h₃.quantize b3).bind ?_
  rintro ⟨o3, s₄⟩ ⟨_, u₄⟩ ⟨rfl, h₄⟩
  exact .ok (h₄.respond _)

theorem execRdreg_sameOutcome (h : s.AgreesButStatus u) {rsv : BitVec 20} {ridx : BitVec 8}
    (hi : Instr.rdreg rsv ridx ≠ .rdreg 0 0x01) : SameOutcome (execRdreg rsv ridx s) (execRdreg rsv ridx u) := by
  refine h.ite_reject fun hrsv => ?_
  cases hr : RegName.ofIndex ridx with
  | none => exact sameOutcome_next (h.reject _)
  | some r =>
    have hne : r ≠ .status := by
      rintro rfl
      exact hi (by rw [not_not.mp hrsv, ofIndex_eq_status hr])
    simp only [h.readReg hne]
    cases s.readReg r with
    | ok v => exact sameOutcome_next (h.respond _)
    | error f => exact sameOutcome_fault f

theorem exec_sameOutcome (h : s.AgreesButStatus u) {i : Instr} (hi : i ≠ .rdreg 0 0x01) :
    SameOutcome (exec i s) (exec i u) := by
  cases i with
  | nop rsv => exact h.ite_reject fun _ => sameOutcome_next (h.respond _)
  | init rsv seed => exact h.ite_reject fun _ => sameOutcome_next ((h.startSession seed).respond _)
  | cfg fast rsvHi fixm1 rsvLo decor dsel esel =>
    exact h.ite_reject fun _ => h.ite_reject fun _ => h.ite_reject fun _ => sameOutcome_next ((h.writeCfg _).respond _)
  | wcoef rsv idx bits =>
    exact h.ite_reject fun _ => h.ite_reject fun _ => sameOutcome_next ((h.writeCoef idx bits).respond _)
  | quant rsv b => exact execQuant_sameOutcome h rsv b
  | quant4 rsv b0 b1 b2 b3 => exact execQuant4_sameOutcome h rsv b0 b1 b2 b3
  | rdreg rsv ridx => exact execRdreg_sameOutcome h hi
  | clrst rsv => exact h.ite_reject fun _ => sameOutcome_next (h.clearStatus.respond _)

end Sys2Proof.Machine

open Sys2Proof.Machine

/-- Settles O19. Each command ends alike on states that agree on all but STATUS. -/
theorem statusIsNoInput : Obligations.StatusIsNoInput := by
  intro i s status hi
  obtain ⟨hnext, hfault⟩ := exec_sameOutcome (s := s) (u := { s with status := status }) ⟨status, rfl⟩ hi
  refine ⟨fun t ht => ?_, hfault⟩
  obtain ⟨_, ⟨st, rfl⟩, hv⟩ := hnext t ht
  exact ⟨st, hv⟩

end

section
/-! O8. A whole command at the head of the input is taken with exactly its own words, whatever follows it (R57, R70, R71). -/

namespace Sys2Proof

/-- Framing reads no further than the command's own words: more words after them stay, after those already there (R71). -/
theorem decode_append_of_command {ws rest : List Word} {i : Instr} (h : decode ws = .command i rest) (more : List Word) :
    decode (ws ++ more) = .command i (rest ++ more) := by
  cases ws with
  | nil => cases h
  | cons cw ws =>
    simp only [decode] at h
    split at h <;> cases h
    all_goals
      rename_i hopc
      simp only [decode, hopc, List.cons_append]

end Sys2Proof

open Sys2Proof Sys2Proof.Machine

/-- Settles O8. The words before the first reset begin with the command's own, so the command is fetched, and what it does
not take is put back in front of the reset. -/
theorem stepRunsTheDecodedCommand : Obligations.StepRunsTheDecodedCommand := by
  intro s ws rest later i hinput hdecode
  have hfetch : fetch s.input = .command i (rest.map .word ++ later) := by
    have hlead : decode (leadingWords s.input) = .command i (rest ++ leadingWords later) := by
      rw [hinput, leadingWords_words]
      exact decode_append_of_command hdecode _
    rw [fetch_of_command hlead, hinput, fromReset_words, List.map_append, List.append_assoc,
      leadingWords_append_fromReset]
  simp only [step, hfetch]
  rfl

end

section
/-! O15. Accepted work returns no response of its own, and the OK response after it has the command's data words (R57, R72,
R73). -/

namespace Sys2Proof.Machine

variable {s u : State}

/-- The work of an accepted command leaves the responses alone: its OK response comes after it (R72). -/
theorem responses_of_accepts {i : Instr} {data : List Word} (ha : s.Accepts i u data) : u.responses = s.responses := by
  cases ha with
  | quant4 b0 b1 b2 b3 l hfast hl => exact l.s4_induction (P := fun v => v.responses = s.responses) rfl fun _ _ _ h => h
  | _ => rfl

theorem length_data_of_accepts {i : Instr} {data : List Word} (ha : s.Accepts i u data) :
    data.length = Claims.responseWords i := by
  cases ha <;> rfl

end Sys2Proof.Machine

open Sys2Proof.Machine

/-- Settles O15. A command is rejected, or answers OK once its work is done. -/
theorem everyCommandAnswersOnce : Obligations.EveryCommandAnswersOnce := by
  intro i s t he
  obtain ⟨code, rfl⟩ | ⟨u, data, ha, rfl⟩ := exec_cases he
  · exact .inl rfl
  · exact .inr ⟨data, length_data_of_accepts ha, by rw [State.respond_responses, responses_of_accepts ha]⟩

end

section
/-! SUPPORT. A conversion as the sequence of its samples, and that every list of commands that sends those samples, by QUANT
or four at a time by QUANT4, does that conversion (R92, R171, R172, R255). -/

namespace Sys2Proof.Machine

variable {s t u : State} {outs : List (BitVec 16)}

/-- `s.Converts samples t outs`: the samples, quantized one after the other from `s`, lead to `t` and give `outs`. No
response is returned (R161). -/
inductive State.Converts : State → List Word → State → List (BitVec 16) → Prop
  | nil (s : State) : s.Converts [] s []
  | cons {s t : State} {b : Word} {bs : List Word} {outs : List (BitVec 16)} {q : Trace} (hq : s.Traces q)
      (hrest : (s.quantized b q).Converts bs t outs) : s.Converts (b :: bs) t (s.output b q :: outs)

theorem converts_cons {b : Word} {bs : List Word} (h : s.Converts (b :: bs) t outs) :
    ∃ q rest, s.Traces q ∧ (s.quantized b q).Converts bs t rest ∧ outs = s.output b q :: rest := by
  cases h with
  | cons hq hrest => exact ⟨_, _, hq, hrest, rfl⟩

/-- The state with the responses replaced (log entry 2). -/
def State.withResponses (rs : List Response) (s : State) : State := { s with responses := rs }

/-- A quantization reads no response and returns none, so neither does a conversion (R161). -/
theorem State.Converts.withResponses {samples : List Word} (h : s.Converts samples t outs) (rs : List Response) :
    (s.withResponses rs).Converts samples (t.withResponses rs) outs := by
  induction h with
  | nil s => exact .nil _
  | cons hq _ ih => exact .cons (s := State.withResponses rs _) hq ih

/-- From a legal state every list of samples is converted. -/
theorem exists_converts_of_legal (samples : List Word) (h : s.Legal) : ∃ t outs, s.Converts samples t outs := by
  induction samples generalizing s with
  | nil => exact ⟨s, [], .nil s⟩
  | cons b bs ih =>
    obtain ⟨q, hq⟩ := exists_traces_of_legal h
    obtain ⟨t, outs, hrest⟩ := ih (legal_quantized b q h)
    exact ⟨t, _, .cons hq hrest⟩

/-- `Expands fast is samples`: the commands `is` send the samples in order, one by QUANT or, on the fast path, four by
QUANT4 (R92). -/
inductive Expands : Bool → List Instr → List Word → Prop
  | nil (fast : Bool) : Expands fast [] []
  | quant {fast : Bool} {is : List Instr} {bs : List Word} (b : Word) (h : Expands fast is bs) :
      Expands fast (.quant 0 b :: is) (b :: bs)
  | quant4 {is : List Instr} {bs : List Word} (b0 b1 b2 b3 : Word) (h : Expands true is bs) :
      Expands true (.quant4 0 b0 b1 b2 b3 :: is) (b0 :: b1 :: b2 :: b3 :: bs)

/-- The expansions of two blocks, one after the other, expand the two blocks joined. -/
theorem Expands.append {fast : Bool} {is js : List Instr} {xs ys : List Word} (hx : Expands fast is xs)
    (hy : Expands fast js ys) : Expands fast (is ++ js) (xs ++ ys) := by
  induction hx with
  | nil fast => exact hy
  | quant b _ ih => exact .quant b (ih hy)
  | quant4 b0 b1 b2 b3 _ ih => exact .quant4 b0 b1 b2 b3 (ih hy)

theorem expands_convertScalar (fast : Bool) (samples : List Word) : Expands fast (convertScalar samples) samples := by
  induction samples with
  | nil => exact .nil fast
  | cons b bs ih => exact .quant b ih

theorem expands_convertFast (samples : List Word) : Expands true (convertFast samples) samples := by
  induction samples using convertFast.induct with
  | case1 b0 b1 b2 b3 rest ih => exact .quant4 b0 b1 b2 b3 ih
  | case2 samples hshort =>
    rw [convertFast.eq_2 samples hshort]
    exact expands_convertScalar true samples

/-- CONVERT expands its samples on either path (R92). -/
theorem expands_convert (fast : Bool) (samples : List Word) : Expands fast (convert fast samples) samples := by
  cases fast with
  | false => exact expands_convertScalar false samples
  | true => exact expands_convertFast samples

/-- The commands `is`, executed from `s`, end in `t` with their responses after the earlier ones, and those carry the output
samples `outs`. -/
def State.Outputs (s : State) (is : List Instr) (t : State) (outs : List (BitVec 16)) : Prop :=
  ∃ rs, execAll is s = .next (t.withResponses (s.responses ++ rs)) ∧ outputSamples rs = outs

theorem State.Outputs.nil (s : State) : s.Outputs [] s [] :=
  ⟨[], by simp [execAll, State.withResponses], rfl⟩

theorem State.Outputs.cons {i : Instr} {is : List Instr} {r : Response} {os : List (BitVec 16)} (hr : r.samples = os)
    (hi : exec i s = .next (u.withResponses (s.responses ++ [r])))
    (his : (u.withResponses (s.responses ++ [r])).Outputs is (t.withResponses (s.responses ++ [r])) outs) :
    s.Outputs (i :: is) t (os ++ outs) := by
  obtain ⟨rs, hrun, rfl⟩ := his
  refine ⟨r :: rs, ?_, by rw [← hr]; exact List.flatMap_cons⟩
  rw [execAll_cons_of_next hi, hrun, List.append_cons s.responses r rs]
  rfl

/-- QUANT's response carries its one output sample (R54 a). -/
theorem samples_quant (out : BitVec 16) : (Response.ok [sampleWord out]).samples = [out] := by
  have hlow : (sampleWord out).setWidth 16 = out := by
    ext k hk
    simp [sampleWord, BitVec.getElem_signExtend, hk, hk.trans (by decide : 16 < 32)]
  simp only [Response.samples, hlow]

/-- QUANT4's response carries the output samples of its four lanes in order (R54 b). -/
theorem samples_quant4 (o0 o1 o2 o3 : BitVec 16) :
    (Response.ok [laneWord o0 o1, laneWord o2 o3]).samples = [o0, o1, o2, o3] := by
  simp only [Response.samples, laneWord, BitVec.extractLsb'_append_eq_left, BitVec.extractLsb'_append_eq_right]

/-- Every expansion of the samples does the conversion: it leaves the conversion's state, and its responses carry the
conversion's output samples (R172, R255). -/
theorem outputs_of_expands {fast : Bool} {is : List Instr} {samples : List Word} (he : Expands fast is samples)
    (hc : s.Converts samples t outs) (hfast : fast = true → s.fast = true) : s.Outputs is t outs := by
  induction he generalizing s t outs with
  | nil fast => cases hc; exact .nil s
  | quant b _ ih =>
    obtain ⟨q, _, hq, hrest, rfl⟩ := converts_cons hc
    exact .cons (samples_quant _) (execQuant_of_traces b hq) (ih (hrest.withResponses _) hfast)
  | quant4 b0 b1 b2 b3 _ ih =>
    obtain ⟨q0, _, h0, hc1, rfl⟩ := converts_cons hc
    obtain ⟨q1, _, h1, hc2, rfl⟩ := converts_cons hc1
    obtain ⟨q2, _, h2, hc3, rfl⟩ := converts_cons hc2
    obtain ⟨q3, _, h3, hrest, rfl⟩ := converts_cons hc3
    have hexec := execQuant4_of_lanes (b0 := b0) (b1 := b1) (b2 := b2) (b3 := b3) ⟨q0, q1, q2, q3⟩ (hfast rfl)
      ⟨h0, h1, h2, h3⟩
    exact .cons (samples_quant4 _ _ _ _) hexec (ih (hrest.withResponses _) hfast)

end Sys2Proof.Machine
end

section
/-! O54. Where a stream is cut into blocks is not seen (R255). -/

open Sys2Proof.Machine

/-- Settles O54. The whole stream's commands and the two blocks' commands expand the same samples, so both do the one
conversion of those samples. -/
theorem blockBoundariesAreNotSeen : Obligations.BlockBoundariesAreNotSeen := by
  intro s xs ys fast hs hfast
  obtain ⟨t, outs, hc⟩ := exists_converts_of_legal (xs ++ ys) hs
  obtain ⟨whole, hwhole, hw⟩ := outputs_of_expands (expands_convert fast (xs ++ ys)) hc hfast
  obtain ⟨blocks, hblocks, hb⟩ :=
    outputs_of_expands ((expands_convert fast xs).append (expands_convert fast ys)) hc hfast
  exact ⟨t, whole, blocks, hwhole, hblocks, hw.trans hb.symm⟩

end

section
/-! SUPPORT. A command word is an opcode above 28 body bits, and a command is its opcode, its body and its operand words
(R70, R71, R74). -/

namespace Sys2Proof

open Laws.EncodedLength (opcode_append)

@[simp] theorem body_append (opc : BitVec 4) (low : BitVec 28) : body (opc ++ low) = low :=
  BitVec.extractLsb'_append_eq_right

theorem opcode_append_body (cw : Word) : opcode cw ++ body cw = cw :=
  BitVec.extractLsb'_append_extractLsb' (w := 4) (len := 28)

theorem opcode_toNat (cw : Word) : (opcode cw).toNat = cw.toNat / 2 ^ 28 := by
  simp only [opcode, BitVec.extractLsb'_toNat, Nat.shiftRight_eq_div_pow]
  omega

namespace Instr

/-- The opcode of a command (R78). -/
def opc : Instr → BitVec 4
  | nop _ => 0
  | init _ _ => 1
  | cfg _ _ _ _ _ _ _ => 2
  | wcoef _ _ _ => 3
  | quant _ _ => 4
  | quant4 _ _ _ _ _ => 5
  | rdreg _ _ => 6
  | clrst _ => 7

/-- The body of a command: the 28 bits below the opcode, in its format (R74). -/
def low : Instr → BitVec 28
  | nop rsv => rsv
  | init rsv _ => rsv
  | cfg fast rsvHi fixm1 rsvLo decor dsel esel => cfgBody fast rsvHi fixm1 rsvLo decor dsel esel
  | wcoef rsv idx _ => rsv ++ idx
  | quant rsv _ => rsv
  | quant4 rsv _ _ _ _ => rsv
  | rdreg rsv ridx => rsv ++ ridx
  | clrst rsv => rsv

/-- The operand words of a command (R71). -/
def operands : Instr → List Word
  | nop _ => []
  | init _ seed => [seed]
  | cfg _ _ _ _ _ _ _ => []
  | wcoef _ _ bits => [bits]
  | quant _ b => [b]
  | quant4 _ b0 b1 b2 b3 => [b0, b1, b2, b3]
  | rdreg _ _ => []
  | clrst _ => []

end Instr

/-- The words of a command: its opcode above its body, then its operand words (R74). -/
theorem encode_eq (i : Instr) : encode i = (i.opc ++ i.low) :: i.operands := by
  cases i with
  | wcoef rsv idx bits => exact congrArg (· :: [bits]) BitVec.append_assoc
  | rdreg rsv ridx => exact congrArg (· :: []) BitVec.append_assoc
  | _ => rfl

theorem eq_of_encode_eq_cons {i : Instr} {cw : Word} {ops : List Word} (h : encode i = cw :: ops) :
    cw = i.opc ++ i.low ∧ ops = i.operands := by
  obtain ⟨rfl, rfl⟩ := List.cons.inj ((encode_eq i).symm.trans h)
  exact ⟨rfl, rfl⟩

/-- A command has as many operand words as its opcode takes (R71). -/
theorem length_operands (i : Instr) : i.operands.length = operandCount i.opc := by
  cases i <;> rfl

/-- Below the opcode, a field of a word is the field of its body. -/
theorem extractLsb'_append_body (opc : BitVec 4) (low : BitVec 28) {start len : Nat} (h : start + len ≤ 28) :
    (opc ++ low : Word).extractLsb' start len = low.extractLsb' start len :=
  BitVec.extractLsb'_append_eq_of_add_le h

/-- CFG's fields are read back from its body (R74 format C). -/
theorem decodeCfg_append (fast : BitVec 1) (rsvHi : BitVec 3) (fixm1 : BitVec 4) (rsvLo : BitVec 3) (decor : BitVec 1)
    (dsel esel : BitVec 8) (opc : BitVec 4) :
    decodeCfg (opc ++ cfgBody fast rsvHi fixm1 rsvLo decor dsel esel) =
      .cfg fast rsvHi fixm1 rsvLo decor dsel esel := by
  obtain ⟨eFast, eHi, eFixm1, eLo, eDecor, eDsel, eEsel⟩ :=
    Machine.cfgBody_fields fast rsvHi fixm1 rsvLo decor dsel esel
  simp only [decodeCfg, extractLsb'_append_body, Nat.reduceAdd, Nat.reduceLeDiff, eFast, eHi, eFixm1, eLo, eDecor,
    eDsel, eEsel]

/-- WCOEF's fields are read back from its body (R74 format W). -/
theorem decodeWcoef_append (rsv : BitVec 24) (idx opc : BitVec 4) (bits : Word) :
    decodeWcoef (opc ++ (rsv ++ idx : BitVec 28)) bits = .wcoef rsv idx bits := by
  have hRsv : (rsv ++ idx : BitVec 28).extractLsb' 4 24 = rsv := BitVec.extractLsb'_append_eq_left
  have hIdx : (rsv ++ idx : BitVec 28).extractLsb' 0 4 = idx := BitVec.extractLsb'_append_eq_right
  simp only [decodeWcoef, extractLsb'_append_body, Nat.reduceAdd, Nat.reduceLeDiff, hRsv, hIdx]

/-- RDREG's fields are read back from its body (R74 format R). -/
theorem decodeRdreg_append (rsv : BitVec 20) (ridx : BitVec 8) (opc : BitVec 4) :
    decodeRdreg (opc ++ (rsv ++ ridx : BitVec 28)) = .rdreg rsv ridx := by
  have hRsv : (rsv ++ ridx : BitVec 28).extractLsb' 8 20 = rsv := BitVec.extractLsb'_append_eq_left
  have hRidx : (rsv ++ ridx : BitVec 28).extractLsb' 0 8 = ridx := BitVec.extractLsb'_append_eq_right
  simp only [decodeRdreg, extractLsb'_append_body, Nat.reduceAdd, Nat.reduceLeDiff, hRsv, hRidx]

/-- CFG's seven fields, joined, are the body they are read from. -/
theorem low_decodeCfg (cw : Word) : (decodeCfg cw).low = body cw := by
  simp (disch := rfl) only [decodeCfg, Instr.low, cfgBody, body, BitVec.extractLsb'_append_extractLsb'_eq_extractLsb']

theorem low_decodeWcoef (cw bits : Word) : (decodeWcoef cw bits).low = body cw :=
  BitVec.extractLsb'_append_extractLsb'_eq_extractLsb' (start₁ := 0) (len₁ := 4) (len₂ := 24) rfl

theorem low_decodeRdreg (cw : Word) : (decodeRdreg cw).low = body cw :=
  BitVec.extractLsb'_append_extractLsb'_eq_extractLsb' (start₁ := 0) (len₁ := 8) (len₂ := 20) rfl

end Sys2Proof
end

section
/-! O1 to O3. The decoder undoes the encoder, drops no bit, and takes the words that the opcode alone fixes (R70, R71,
R79). -/

namespace Sys2Proof

open Laws.EncodedLength (opcode_append)

theorem decode_encode_append (i : Instr) (rest : List Word) : decode (encode i ++ rest) = .command i rest := by
  rw [encode_eq, List.cons_append]
  cases i with
  | cfg =>
    simp only [Instr.opc, Instr.low, decode, opcode_append]
    exact congrArg (Decoded.command · rest) (decodeCfg_append ..)
  | wcoef =>
    simp only [Instr.opc, Instr.low, decode, opcode_append]
    exact congrArg (Decoded.command · rest) (decodeWcoef_append ..)
  | rdreg =>
    simp only [Instr.opc, Instr.low, decode, opcode_append]
    exact congrArg (Decoded.command · rest) (decodeRdreg_append ..)
  | _ =>
    simp only [Instr.opc, Instr.low, decode, opcode_append, body_append]
    rfl

theorem operandCount_eq (opc : BitVec 4) : operandCount opc = Claims.operandWords opc.toNat := by
  revert opc
  decide

/-- Words that a command begins are its command word, as many operand words as its opcode takes, and the rest (R71). -/
theorem operands_append_of_encode_append {i : Instr} {cw : Word} {ws rest : List Word}
    (h : encode i ++ rest = cw :: ws) : i.operands.length = operandCount (opcode cw) ∧ i.operands ++ rest = ws := by
  rw [encode_eq, List.cons_append] at h
  obtain ⟨rfl, rfl⟩ := List.cons.inj h
  rw [opcode_append]
  exact ⟨length_operands i, rfl⟩

/-- The words of a command, from a word with its opcode and its body. -/
theorem encode_append_of_opcode {i : Instr} {cw : Word} (hopc : (opcode cw).toNat = i.opc.toNat)
    (hlow : i.low = body cw) (rest : List Word) : encode i ++ rest = cw :: (i.operands ++ rest) := by
  have hword : i.opc ++ i.low = cw := by
    rw [hlow, BitVec.eq_of_toNat_eq hopc.symm, opcode_append_body]
  rw [encode_eq, hword, List.cons_append]

theorem length_lt_one {ws : List Word} (h : ∀ w later, ws = w :: later → False) : ws.length < 1 := by
  cases ws with
  | nil => exact Nat.one_pos
  | cons w later => exact (h w later rfl).elim

theorem length_lt_four {ws : List Word} (h : ∀ w0 w1 w2 w3 later, ws = w0 :: w1 :: w2 :: w3 :: later → False) :
    ws.length < 4 := by
  match ws with
  | [] | [_] | [_, _] | [_, _, _] => simp
  | w0 :: w1 :: w2 :: w3 :: later => exact (h w0 w1 w2 w3 later rfl).elim

/-- Everything the decoder can find at a command word: a command made of exactly the words it took, a reserved opcode,
or fewer operand words than the opcode takes. -/
theorem decode_cons_cases (cw : Word) (ws : List Word) :
    (∃ i rest, decode (cw :: ws) = .command i rest ∧ encode i ++ rest = cw :: ws) ∨
      (operandCount (opcode cw) = 0 ∧ decode (cw :: ws) = .illegalOpcode ws) ∨
      (ws.length < operandCount (opcode cw) ∧ decode (cw :: ws) = .incomplete) := by
  simp only [decode]
  split
  case h_1 hopc => exact .inl ⟨_, _, rfl, encode_append_of_opcode hopc rfl _⟩
  case h_2 hopc => exact .inl ⟨_, _, rfl, encode_append_of_opcode hopc rfl _⟩
  case h_3 hopc => exact .inl ⟨_, _, rfl, encode_append_of_opcode hopc (low_decodeCfg cw) _⟩
  case h_4 hopc => exact .inl ⟨_, _, rfl, encode_append_of_opcode hopc (low_decodeWcoef cw _) _⟩
  case h_5 hopc => exact .inl ⟨_, _, rfl, encode_append_of_opcode hopc rfl _⟩
  case h_6 hopc => exact .inl ⟨_, _, rfl, encode_append_of_opcode hopc rfl _⟩
  case h_7 hopc => exact .inl ⟨_, _, rfl, encode_append_of_opcode hopc (low_decodeRdreg cw) _⟩
  case h_8 hopc => exact .inl ⟨_, _, rfl, encode_append_of_opcode hopc rfl _⟩
  case h_9 hopc hnone => exact .inr (.inr ⟨by simpa [operandCount, hopc] using length_lt_one hnone, rfl⟩)
  case h_10 hopc hnone => exact .inr (.inr ⟨by simpa [operandCount, hopc] using length_lt_one hnone, rfl⟩)
  case h_11 hopc hnone => exact .inr (.inr ⟨by simpa [operandCount, hopc] using length_lt_one hnone, rfl⟩)
  case h_12 hopc hfew => exact .inr (.inr ⟨by simpa [operandCount, hopc] using length_lt_four hfew, rfl⟩)
  case h_13 => exact .inr (.inl ⟨by simp only [operandCount], rfl⟩)

end Sys2Proof

open Sys2Proof

/-- Settles O1. Each format reads back the fields that it placed. -/
theorem decodeOfEncodeIsTheCommand : Obligations.DecodeOfEncodeIsTheCommand := decode_encode_append

/-- Settles O2. -/
theorem encodeOfDecodeIsTheWords : Obligations.EncodeOfDecodeIsTheWords := by
  intro ws rest i h
  cases ws with
  | nil => cases h
  | cons cw ws =>
    obtain ⟨j, later, hj, hwords⟩ | ⟨-, hill⟩ | ⟨-, hinc⟩ := decode_cons_cases cw ws
    · obtain ⟨rfl, rfl⟩ := Decoded.command.inj (hj.symm.trans h)
      exact hwords
    · exact absurd (hill.symm.trans h) nofun
    · exact absurd (hinc.symm.trans h) nofun

/-- Settles O3. The words taken begin with the command word and its operands, whose number its opcode fixes. -/
theorem opcodeAloneFramesTheCommand : Obligations.OpcodeAloneFramesTheCommand := by
  intro cw ops rest
  rw [← opcode_toNat, ← operandCount_eq]
  refine ⟨fun hlen => ?_, fun hlen => ?_⟩
  · obtain ⟨i, later, hi, hwords⟩ | ⟨hzero, hill⟩ | ⟨hfew, -⟩ := decode_cons_cases cw (ops ++ rest)
    · obtain ⟨hcount, happ⟩ := operands_append_of_encode_append hwords
      obtain ⟨-, rfl⟩ := List.append_inj happ (hcount.trans hlen.symm)
      exact .inl ⟨i, hi⟩
    · obtain rfl : ops = [] := List.eq_nil_of_length_eq_zero (hlen.trans hzero)
      exact .inr hill
    · rw [List.length_append] at hfew
      omega
  · obtain ⟨i, later, -, hwords⟩ | ⟨hzero, -⟩ | ⟨-, hinc⟩ := decode_cons_cases cw ops
    · obtain ⟨hcount, rfl⟩ := operands_append_of_encode_append hwords
      rw [List.length_append] at hlen
      omega
    · omega
    · exact hinc

end

section
/-! O4, O7. The reserved bits of a command are the bits of its body under its format's mask: the opcode map's rows ask
that they are 0, and a command with one set is rejected before every other check (R75, R78, R224). -/

namespace Sys2Proof

open Claims (mapRow reservedMask rejectedWith)
open Laws.EncodedLength (opcode_append)

namespace Instr

/-- The reserved mask of a command's format, on the body (R75). -/
def bodyMask : Instr → BitVec 28
  | cfg _ _ _ _ _ _ _ => cfgBody 0 7 0 7 0 0 0
  | wcoef _ _ _ => BitVec.allOnes 24 ++ 0#4
  | rdreg _ _ => BitVec.allOnes 20 ++ 0#8
  | nop _ => BitVec.allOnes 28
  | init _ _ => BitVec.allOnes 28
  | quant _ _ => BitVec.allOnes 28
  | quant4 _ _ _ _ _ => BitVec.allOnes 28
  | clrst _ => BitVec.allOnes 28

end Instr

/-- A row of the opcode map: the opcode over a body of zeros, under the whole opcode and the format's reserved bits. -/
theorem mapRow_eq (i : Instr) : mapRow i = (i.opc ++ 0#28, 0xF#4 ++ i.bodyMask) := by
  cases i <;> simp only [mapRow, Instr.opc, Instr.bodyMask] <;> decide

/-- The mask of a word's format is that of its command, below the opcode (R75). -/
theorem reservedMask_append (i : Instr) : reservedMask (i.opc ++ i.low) = 0#4 ++ i.bodyMask := by
  have hopc : (i.opc ++ i.low : Word).toNat / 2 ^ 28 = i.opc.toNat := by
    rw [← opcode_toNat, opcode_append]
  rw [reservedMask, hopc]
  cases i <;> simp only [Instr.opc, Instr.bodyMask] <;> decide

theorem append_inj {v w : Nat} {x x' : BitVec v} {y y' : BitVec w} : x ++ y = x' ++ y' ↔ x = x' ∧ y = y' := by
  refine ⟨fun h => ⟨?_, ?_⟩, fun ⟨hx, hy⟩ => hx ▸ hy ▸ rfl⟩
  · rw [← BitVec.extractLsb'_append_eq_left (a := x) (b := y), h, BitVec.extractLsb'_append_eq_left]
  · rw [← BitVec.extractLsb'_append_eq_right (a := x) (b := y), h, BitVec.extractLsb'_append_eq_right]

/-- A mask of the high field leaves 0 exactly when that field is 0. -/
theorem append_and_highMask {v w : Nat} (x : BitVec v) (y : BitVec w) :
    (x ++ y) &&& (BitVec.allOnes v ++ 0#w) = 0 ↔ x = 0 := by
  rw [BitVec.and_append, BitVec.and_allOnes, BitVec.and_zero, BitVec.ofNat_eq_ofNat, ← BitVec.zero_append_zero,
    append_inj]
  exact and_iff_left rfl

/-- CFG's reserved bits are what its mask leaves of its body (R74 format C). -/
theorem cfgBody_and_mask (fast : BitVec 1) (rsvHi : BitVec 3) (fixm1 : BitVec 4) (rsvLo : BitVec 3) (decor : BitVec 1)
    (dsel esel : BitVec 8) :
    cfgBody fast rsvHi fixm1 rsvLo decor dsel esel &&& cfgBody 0 7 0 7 0 0 0 = cfgBody 0 rsvHi 0 rsvLo 0 0 0 := by
  have h3 (x : BitVec 3) : x &&& 7 = x := BitVec.and_allOnes
  unfold cfgBody
  iterate 6 rw [BitVec.and_append]
  rw [h3, h3]
  simp only [BitVec.ofNat_eq_ofNat, BitVec.and_zero]

theorem cfgBody_reserved_eq_zero {rsvHi rsvLo : BitVec 3} :
    cfgBody 0 rsvHi 0 rsvLo 0 0 0 = 0 ↔ rsvHi = 0 ∧ rsvLo = 0 := by
  obtain ⟨-, eHi, -, eLo, -⟩ := Machine.cfgBody_fields 0 rsvHi 0 rsvLo 0 0 0
  refine ⟨fun h => ?_, fun ⟨hHi, hLo⟩ => by subst hHi hLo; decide⟩
  rw [h] at eHi eLo
  exact ⟨eHi.symm, eLo.symm⟩

/-- A command is well formed exactly when no bit of its body is set under its format's mask (R75). -/
theorem wellFormed_iff (i : Instr) : i.wellFormed = true ↔ i.low &&& i.bodyMask = 0 := by
  cases i with
  | cfg fast rsvHi fixm1 rsvLo decor dsel esel =>
    rw [Instr.low, Instr.bodyMask, cfgBody_and_mask, cfgBody_reserved_eq_zero]
    simp [Instr.wellFormed]
  | wcoef rsv idx bits => exact beq_iff_eq.trans (append_and_highMask rsv idx).symm
  | rdreg rsv ridx => exact beq_iff_eq.trans (append_and_highMask rsv ridx).symm
  | _ => simp only [Instr.wellFormed, Instr.low, Instr.bodyMask, BitVec.and_allOnes, beq_iff_eq]

/-- R221's rejection for reserved bits is the model's. -/
theorem reject_reservedBits (s : Machine.State) : s.reject .reservedBits = rejectedWith 2 s := rfl

/-- Every command checks its reserved bits first (R224). -/
theorem exec_of_not_wellFormed {i : Instr} (h : ¬ i.wellFormed = true) (s : Machine.State) :
    Machine.exec i s = .next (s.reject .reservedBits) := by
  cases i with
  | cfg fast rsvHi fixm1 rsvLo decor dsel esel =>
    exact if_pos (by simpa [Instr.wellFormed, imp_iff_not_or] using h)
  | _ => exact if_pos (by simpa [Instr.wellFormed] using h)

end Sys2Proof

open Sys2Proof

/-- Settles O4. Under the row's mask the word keeps its opcode and the reserved bits of its body. -/
theorem wellFormedIsTheOpcodeMap : Obligations.WellFormedIsTheOpcodeMap := by
  intro i cw ops h
  obtain ⟨rfl, -⟩ := eq_of_encode_eq_cons h
  have hopc : i.opc &&& 0xF#4 = i.opc := BitVec.and_allOnes
  rw [mapRow_eq, BitVec.and_append, append_inj, hopc, wellFormed_iff]
  simp

/-- Settles O7. A bit under the mask makes the command ill formed. -/
theorem reservedBitIsRejected : Obligations.ReservedBitIsRejected := by
  intro s i cw ops h hbit
  obtain ⟨rfl, -⟩ := eq_of_encode_eq_cons h
  rw [← reject_reservedBits]
  refine exec_of_not_wellFormed (fun hwf => hbit ?_) s
  rw [reservedMask_append, BitVec.and_append, (wellFormed_iff i).mp hwf]
  simp

end

section
/-! O5, O56, O57. Worked encodings, and the one word of SETUP (R74, R81, R84, R86). -/

namespace Sys2Proof.Machine

theorem words_setup (fixm1 : BitVec 4) (dither : BitVec 9) (shaping : BitVec 8) (fast : BitVec 1) :
    (AsmLine.setup fixm1 dither shaping fast).words =
      [2#4 ++ cfgBody fast 0 fixm1 0 (dither.extractLsb' 8 1) (dither.extractLsb' 0 8) shaping] := rfl

/-- DECOR and DSEL, side by side in CFG, are the 9-bit dither mode (R81). -/
theorem extractLsb'_cfgBody_dither (fast : BitVec 1) (rsvHi : BitVec 3) (fixm1 : BitVec 4) (rsvLo : BitVec 3)
    (dither : BitVec 9) (esel : BitVec 8) :
    (cfgBody fast rsvHi fixm1 rsvLo (dither.extractLsb' 8 1) (dither.extractLsb' 0 8) esel).extractLsb' 8 9 =
      dither := by
  obtain ⟨-, -, -, -, eDecor, eDsel, -⟩ :=
    cfgBody_fields fast rsvHi fixm1 rsvLo (dither.extractLsb' 8 1) (dither.extractLsb' 0 8) esel
  rw [← BitVec.extractLsb'_append_extractLsb'_eq_extractLsb' (start₂ := 16) (len₂ := 1) (len₁ := 8) rfl, eDecor, eDsel]
  exact BitVec.extractLsb'_append_extractLsb'

end Sys2Proof.Machine

open Sys2Proof Sys2Proof.Machine

/-- Settles O5. -/
theorem writtenOutWordsDecode : Obligations.WrittenOutWordsDecode := by
  unfold Obligations.WrittenOutWordsDecode
  decide

/-- Settles O56. -/
theorem workedEncodingsAssemble : Obligations.WorkedEncodingsAssemble := by
  unfold Obligations.WorkedEncodingsAssemble
  decide +kernel

/-- Settles O57. -/
theorem setupPlacesTheDitherMode : Obligations.SetupPlacesTheDitherMode := by
  intro fixm1 dither shaping fast
  obtain ⟨eFast, -, eFixm1, -, -, -, eEsel⟩ :=
    cfgBody_fields fast 0 fixm1 0 (dither.extractLsb' 8 1) (dither.extractLsb' 0 8) shaping
  refine ⟨_, words_setup fixm1 dither shaping fast, ?_, ?_, ?_, ?_, ?_, ?_⟩
  · rw [extractLsb'_append_body _ _ (by decide), extractLsb'_cfgBody_dither]
  · rw [extractLsb'_append_body _ _ (by decide), eEsel]
  · rw [extractLsb'_append_body _ _ (by decide), eFixm1]
  · rw [extractLsb'_append_body _ _ (by decide), eFast]
  · exact Laws.EncodedLength.opcode_append _ _
  · have hmask : 0x070E0000#32 = 0#4 ++ cfgBody 0 7 0 7 0 0 0 := by decide
    rw [hmask, BitVec.and_append, cfgBody_and_mask]
    decide

end

section
/-! O53. The fast and the scalar expansion of CONVERT do one and the same conversion (R92, R172). -/

namespace Sys2Proof.Machine

/-- A conversion gives one output sample for each sample (R161). -/
theorem State.Converts.length_outs {s t : State} {samples : List Word} {outs : List (BitVec 16)}
    (h : s.Converts samples t outs) : outs.length = samples.length := by
  induction h with
  | nil s => rfl
  | cons hq _ ih => exact congrArg (· + 1) ih

end Sys2Proof.Machine

open Sys2Proof.Machine

/-- Settles O53. Both paths' commands expand the same samples, so both do the one conversion of those samples. -/
theorem fastConvertEqualsScalarConvert : Obligations.FastConvertEqualsScalarConvert := by
  intro s samples hs hfast
  obtain ⟨t, outs, hc⟩ := exists_converts_of_legal samples hs
  obtain ⟨fast, hrunFast, hf⟩ := outputs_of_expands (expands_convert true samples) hc fun _ => hfast
  obtain ⟨scalar, hrunScalar, hsc⟩ := outputs_of_expands (expands_convert false samples) hc nofun
  exact ⟨t, fast, scalar, hrunFast, hrunScalar, hf.trans hsc.symm, by rw [hsc, hc.length_outs]⟩

end

section
/-! O58. LOADCOEF writes COEF from its first element on, one WCOEF a value (R87, R196). -/

namespace Sys2Proof.Machine

open Claims (NotFinite)

theorem f32Exponent_eq (b : Word) : f32Exponent b = b.toNat / 2 ^ 23 % 256 := by
  simp [f32Exponent, BitVec.extractLsb'_toNat, Nat.shiftRight_eq_div_pow]

theorem f32IsFinite_iff (b : Word) : f32IsFinite b = true ↔ ¬ NotFinite b := by
  simp [f32IsFinite, f32Exponent_eq, NotFinite]

/-- WCOEF of a finite pattern is accepted (R196). -/
theorem exec_wcoef_of_finite {bits : Word} (h : ¬ NotFinite bits) (idx : BitVec 4) (s : State) :
    exec (.wcoef 0 idx bits) s = .next ((s.writeCoef idx bits).respond []) := by
  simp [exec, execWcoef, (f32IsFinite_iff bits).mpr h]

/-- COEF with the elements from `n` on written from a list, as far as it goes. -/
def coefFrom (n : Nat) (xs : List Word) (coef : Window 32) : Window 32 :=
  Vector.ofFn fun k => if n ≤ k.val then xs[k.val - n]?.getD coef[k] else coef[k]

theorem coefFrom_nil (n : Nat) (coef : Window 32) : coefFrom n [] coef = coef := by
  ext k hk
  simp [coefFrom]

/-- The first value goes to element `n`, the others to the elements after it. -/
theorem coefFrom_cons {n : Nat} (hn : n < 16) (x : Word) (xs : List Word) (coef : Window 32) :
    coefFrom n (x :: xs) coef = coefFrom (n + 1) xs (coef.set n x) := by
  ext k hk : 1
  simp only [coefFrom, Vector.getElem_ofFn, Fin.getElem_fin, Vector.getElem_set]
  obtain hlt | rfl | hgt := lt_trichotomy k n
  · rw [if_neg (by omega), if_neg (by omega), if_neg (by omega)]
  · simp
  · rw [if_pos (by omega), if_pos (by omega), if_neg (by omega), show k - n = k - (n + 1) + 1 by omega,
      List.getElem?_cons_succ]

/-- The state after the patterns `xs` are written to COEF from element `n` on, each answered OK. -/
def State.loadedFrom (n : Nat) (xs : List Word) (s : State) : State :=
  { s with coef := coefFrom n xs s.coef, responses := s.responses ++ List.replicate xs.length (.ok []) }

theorem loadedFrom_cons {n : Nat} (hn : n < 16) (x : Word) (xs : List Word) (s : State) :
    s.loadedFrom n (x :: xs) = ((s.writeCoef (BitVec.ofNat 4 n) x).respond []).loadedFrom (n + 1) xs := by
  have hidx : (BitVec.ofNat 4 n).toNat = n := by simp [hn]
  simp [State.loadedFrom, State.writeCoef, State.respond, coefFrom_cons hn, hidx, List.replicate_succ]

/-- WCOEFs of finite patterns to consecutive elements write them all (R196). -/
theorem execAll_wcoefs {n : Nat} {xs : List Decimal} (hlen : n + xs.length ≤ 16)
    (hfin : ∀ x ∈ xs, ¬ NotFinite x.bits) (s : State) :
    execAll ((xs.zipIdx n).map fun (x, i) => .wcoef 0 (BitVec.ofNat 4 i) x.bits) s =
      .next (s.loadedFrom n (xs.map Decimal.bits)) := by
  induction xs generalizing n s with
  | nil => simp [execAll, State.loadedFrom, coefFrom_nil]
  | cons x xs ih =>
    rw [List.length_cons] at hlen
    have hx := exec_wcoef_of_finite (hfin x List.mem_cons_self) (BitVec.ofNat 4 n) s
    rw [List.zipIdx_cons, List.map_cons, execAll_cons_of_next hx, List.map_cons, loadedFrom_cons (by omega)]
    exact ih (by omega) (fun y hy => hfin y (List.mem_cons_of_mem x hy)) _

end Sys2Proof.Machine

open Sys2Proof.Machine

/-- Settles O58. The WCOEFs write from element 0 on. -/
theorem loadCoefWritesTheFirstCoefficients : Obligations.LoadCoefWritesTheFirstCoefficients := by
  intro s xs hlen hfin
  refine ⟨s.loadedFrom 0 (xs.map Decimal.bits), ?_, fun k => ?_, ?_⟩
  · rw [loadCoef, List.take_of_length_le hlen]
    exact execAll_wcoefs (by omega) hfin s
  · simp [State.loadedFrom, coefFrom]
  · simp [State.loadedFrom]

end

section
/-! O59. The exact value of a finite pattern rounds to that pattern: it is a 24-bit significand times a power of two,
and `f32Nearest` finds both (R85, R160). -/

namespace Sys2Proof.Machine

open Claims (NotFinite)

variable (b : Word)

theorem f32Exponent_lt : f32Exponent b < 2 ^ 8 := BitVec.isLt _

theorem f32Fraction_lt : f32Fraction b < 2 ^ 23 := BitVec.isLt _

/-- A pattern is its sign, exponent and fraction (R53). -/
theorem f32_toNat : b.toNat = (if f32Sign b then 2 ^ 31 else 0) + (f32Exponent b * 2 ^ 23 + f32Fraction b) := by
  have hfrac : f32Fraction b = b.toNat % 2 ^ 23 := by
    simp [f32Fraction, BitVec.extractLsb'_toNat]
  have hsign : f32Sign b = decide (2 ^ 31 ≤ b.toNat) := BitVec.msb_eq_decide b
  have hlt : b.toNat < 2 ^ 32 := b.isLt
  rw [f32Exponent_eq, hfrac, hsign]
  simp only [decide_eq_true_eq]
  split <;> omega

/-- The significand of a finite pattern, with its leading 1 if the pattern is normal (R160). -/
def f32Significand : Nat := if f32Exponent b = 0 then f32Fraction b else 2 ^ 23 + f32Fraction b

theorem f32Magnitude_eq : f32Magnitude b = f32Significand b * 2 ^ (f32Exponent b - 1) := by
  unfold f32Magnitude f32Significand
  split <;> simp [*]

/-- The exponent of a finite pattern is found from the size of its magnitude. -/
theorem log2_f32Magnitude : Nat.log2 (f32Magnitude b) - 23 = f32Exponent b - 1 := by
  have hF := f32Fraction_lt b
  unfold f32Magnitude
  split
  case isTrue hE =>
    obtain hz | hpos := Nat.eq_zero_or_pos (f32Fraction b)
    · simp [hz, hE]
    · have := (Nat.log2_lt (k := 23) hpos.ne').mpr hF
      omega
  case isFalse hE =>
    have hlog : Nat.log2 ((2 ^ 23 + f32Fraction b) * 2 ^ (f32Exponent b - 1)) = 23 + (f32Exponent b - 1) := by
      rw [Nat.log2_eq_iff (by positivity), pow_add, Nat.add_right_comm 23, pow_add _ (23 + 1)]
      exact ⟨Nat.mul_le_mul_right _ (by omega), Nat.mul_lt_mul_of_pos_right (by omega) (by positivity)⟩
    rw [hlog]
    omega

/-- The bits below the sign are the exponent and the significand, added: the leading 1 carries into the exponent. -/
theorem exponent_add_significand :
    (f32Exponent b - 1) * 2 ^ 23 + f32Significand b = f32Exponent b * 2 ^ 23 + f32Fraction b := by
  unfold f32Significand
  split <;> omega

theorem f32Units_natAbs : (f32Units b).natAbs = f32Magnitude b := by
  unfold f32Units
  split <;> simp

/-- A real that is a significand times the power of two that the significand's size asks for is not rounded (R85). -/
theorem f32Nearest_of_exact {num : Int} {q e : Nat} (hnum : num.natAbs = q * 2 ^ e)
    (hlog : Nat.log2 num.natAbs - 23 = e) (hmax : e * 2 ^ 23 + q ≤ 0x7F800000) :
    f32Nearest num (2 ^ 149) =
      BitVec.ofNat 32 (if num < 0 then 0x80000000 + (e * 2 ^ 23 + q) else e * 2 ^ 23 + q) := by
  have hpos : 0 < 2 ^ 149 * 2 ^ e := by positivity
  have hscale : num.natAbs * 2 ^ 149 = q * (2 ^ 149 * 2 ^ e) := by rw [hnum]; ring
  unfold f32Nearest
  simp only [Nat.mul_div_cancel _ (Nat.two_pow_pos 149), hlog]
  simp only [hscale, Nat.mul_div_cancel _ hpos, Nat.mul_mod_left]
  have hround : ¬ (2 ^ 149 * 2 ^ e < 2 * 0 ∨ 2 * 0 = 2 ^ 149 * 2 ^ e ∧ q % 2 = 1) := by omega
  rw [if_neg hround, min_eq_left hmax]

/-- The value 0 has no bit set below the sign (R160). -/
theorem fields_of_f32Magnitude_eq_zero {b : Word} (h : f32Magnitude b = 0) : f32Exponent b = 0 ∧ f32Fraction b = 0 := by
  have hsig : f32Significand b = 0 := by simpa [f32Magnitude_eq] using h
  unfold f32Significand at hsig
  split at hsig <;> omega

/-- But for -0.0, a pattern's value is negative exactly where its sign bit is set (R160). -/
theorem f32Units_neg_iff {b : Word} (h : b ≠ 0x80000000#32) : f32Units b < 0 ↔ f32Sign b = true := by
  unfold f32Units
  split
  case isFalse hs => simp [hs]
  case isTrue hs =>
    have hpos : 0 < f32Magnitude b := by
      refine Nat.pos_of_ne_zero fun hz => h (BitVec.eq_of_toNat_eq ?_)
      obtain ⟨hE, hF⟩ := fields_of_f32Magnitude_eq_zero hz
      rw [f32_toNat, if_pos hs, hE, hF]
      rfl
    simp [hs, hpos]

end Sys2Proof.Machine

open Sys2Proof.Machine

/-- Settles O59. Nothing is rounded, so the answer's fields are the pattern's own. -/
theorem f32NearestGivesAFinitePatternBack : Obligations.F32NearestGivesAFinitePatternBack := by
  intro b hfin hne
  have hmax : f32Exponent b * 2 ^ 23 + f32Fraction b ≤ 0x7F800000 := by
    have hE : f32Exponent b ≠ 255 := by rw [f32Exponent_eq]; exact hfin
    have := f32Exponent_lt b
    have := f32Fraction_lt b
    omega
  have habs := f32Units_natAbs b
  rw [f32Nearest_of_exact (habs.trans (f32Magnitude_eq b)) (by rw [habs, log2_f32Magnitude])
    (by rwa [exponent_add_significand]), exponent_add_significand]
  calc
    _ = BitVec.ofNat 32 b.toNat := by
      rw [f32_toNat b]
      simp only [f32Units_neg_iff hne]
      split <;> simp
    _ = b := by simp

end

section
/-! O29, O30, O31. What a draw combines, what a sample's fill pushes, and how far it moves the generator (R103 to R109). -/

namespace Sys2Proof.Machine

variable {s : State}

/-- Bit `k` of the combination: of the first draw bit `k - 10`, of the second bit `k + 10`, of the third bit `k` (R103). -/
theorem getLsbD_combineDraws (d1 d2 d3 : BitVec 16) {k : Nat} (hk : k < 16) :
    (combineDraws d1 d2 d3).getLsbD k =
      ((decide (10 ≤ k) && d1.getLsbD (k - 10)) ^^ d2.getLsbD (k + 10) ^^ d3.getLsbD k) := by
  have hshift : (!decide (k < 10)) = decide (10 ≤ k) := by rw [← decide_not, decide_eq_decide, not_lt]
  simp only [combineDraws, BitVec.getLsbD_xor, BitVec.getLsbD_shiftLeft, BitVec.getLsbD_ushiftRight, hk, hshift,
    decide_true, Bool.true_and, Nat.add_comm 10 k]

/-- The second draw does not reach bits 15:10. -/
theorem combineDraws_high (d1 d2 d3 : BitVec 16) :
    (combineDraws d1 d2 d3).extractLsb' 10 6 = d1.extractLsb' 0 6 ^^^ d3.extractLsb' 10 6 := by
  refine BitVec.eq_of_getLsbD_eq fun i hi => ?_
  have hd2 : d2.getLsbD (10 + i + 10) = false := BitVec.getLsbD_of_ge _ _ (by omega)
  simp [hi, getLsbD_combineDraws d1 d2 d3 (show 10 + i < 16 by omega), hd2]

/-- Neither the first nor the second draw reaches bits 9:6. -/
theorem combineDraws_middle (d1 d2 d3 : BitVec 16) :
    (combineDraws d1 d2 d3).extractLsb' 6 4 = d3.extractLsb' 6 4 := by
  refine BitVec.eq_of_getLsbD_eq fun i hi => ?_
  have hd1 : ¬ 10 ≤ 6 + i := by omega
  simp [hi, getLsbD_combineDraws d1 d2 d3 (show 6 + i < 16 by omega), hd1]

/-- The first draw does not reach bits 5:0. -/
theorem combineDraws_low (d1 d2 d3 : BitVec 16) :
    (combineDraws d1 d2 d3).extractLsb' 0 6 = d2.extractLsb' 10 6 ^^^ d3.extractLsb' 0 6 := by
  refine BitVec.eq_of_getLsbD_eq fun i hi => ?_
  have hd1 : ¬ 10 ≤ i := by omega
  simp [hi, getLsbD_combineDraws d1 d2 d3 (show i < 16 by omega), hd1, Nat.add_comm i 10]

theorem fillValue_false (L : Word) :
    fillValue false L = (((nextU16 L).1.toNat : Int) - 0x8000, (nextU16 L).2) := rfl

theorem fillValue_true (L : Word) :
    fillValue true L =
      (((nextU16 L).1.toNat : Int) - (nextU16 (nextU16 L).2).1.toNat, (nextU16 (nextU16 L).2).2) := rfl

/-- `NextU16` takes three draws of sixteen steps (R102, R103). -/
theorem nextU16_snd (L : Word) : (nextU16 L).2 = lfsrSteps 48 L :=
  calc (nextU16 L).2
    _ = lfsrSteps 16 (lfsrSteps 16 (lfsrSteps 16 L)) := rfl
    _ = lfsrSteps (16 + 16 + 16) L := by rw [lfsrSteps_add, lfsrSteps_add]

/-- A fill takes one `NextU16` or two, as DECOR alone decides (R105, R109). -/
theorem fillValue_snd (decor : Bool) (L : Word) : (fillValue decor L).2 = lfsrSteps (if decor then 96 else 48) L := by
  cases decor with
  | false => rw [fillValue_false, nextU16_snd]; rfl
  | true => rw [fillValue_true, nextU16_snd, nextU16_snd, ← lfsrSteps_add]; rfl

/-- The most recent element of RWIN after a quantization is the value of its fill, exactly (R105, R106). -/
theorem quantized_rwin_zero_toInt (b : Word) (q : Trace) :
    (s.quantized b q).rwin[0].toInt = (fillValue s.decor s.lfsr).1 := by
  rw [quantized_rwin, push_zero, toInt_fillValue]

end Sys2Proof.Machine

open Sys2Proof.Machine

/-- Settles O29. -/
theorem nextU16CombinesThreeDraws : Obligations.NextU16CombinesThreeDraws :=
  fun _ => ⟨rfl, combineDraws_high _ _ _, combineDraws_middle _ _ _, combineDraws_low _ _ _⟩

/-- Settles O30. The sample's one push is its fill's. -/
theorem everySampleFillsOnce : Obligations.EverySampleFillsOnce := by
  intro s b hs
  obtain ⟨q, -, hexec, -⟩ := exec_quant_of_legal b hs
  refine ⟨_, hexec, fun hdecor => ?_, fun hdecor => ?_, fun k => ?_⟩
  · rw [State.respond_rwin, State.respond_lfsr, quantized_rwin_zero_toInt, quantized_lfsr, hdecor, fillValue_false]
    exact ⟨rfl, rfl⟩
  · rw [State.respond_rwin, State.respond_lfsr, quantized_rwin_zero_toInt, quantized_lfsr, hdecor, fillValue_true]
    exact ⟨rfl, rfl⟩
  · obtain ⟨hrwin, -⟩ := movedOlder_quantized s b q k.val (by omega)
    exact hrwin

/-- Settles O31. -/
theorem drawCountDependsOnDecorAlone : Obligations.DrawCountDependsOnDecorAlone := by
  intro s b hs
  obtain ⟨q, -, hexec, -⟩ := exec_quant_of_legal b hs
  refine ⟨_, hexec, ?_⟩
  rw [State.respond_lfsr, quantized_lfsr, fillValue_snd]
  rfl

end

section
/-! O40. A fixed selector's value over RWIN is far inside the 64-bit range (R137, R152). -/

namespace Sys2Proof.Machine

variable {s : State}

/-- Rounding to the nearest integer never moves away from zero past the numerator (R136). -/
theorem natAbs_rha_le (n : Int) {d : Nat} (hd : 0 < d) : (rha n d).natAbs ≤ n.natAbs := by
  have hquot : (2 * n.natAbs + d) / (2 * d) ≤ n.natAbs := by
    refine Nat.lt_succ_iff.mp ((Nat.div_lt_iff_lt_mul (by omega)).mpr ?_)
    have : n.natAbs ≤ n.natAbs * d := Nat.le_mul_of_pos_right _ hd
    calc 2 * n.natAbs + d
      _ < 2 * (n.natAbs * d) + 2 * d := by omega
      _ = (n.natAbs + 1) * (2 * d) := by ring
  obtain rfl | hn := eq_or_ne n 0
  · simp [rha]
  · rwa [rha, Int.natAbs_mul, Int.natAbs_sign_of_ne_zero hn, one_mul, Int.natAbs_natCast]

/-- The codes up to 8 are the selectors that do not read COEF (R80). -/
theorem exists_ofCode_of_le {code : BitVec 8} (h : code.toNat ≤ 8) :
    ∃ sel, Selector.ofCode code = some sel ∧ sel ≠ .user := by
  unfold Selector.ofCode
  generalize code.toNat = n at h
  interval_cases n <;> exact ⟨_, rfl, by decide⟩

/-- A bound on every selector but 255, over a window whose values are at most `M` in magnitude: the taps of the widest
filter, not yet divided by 10000. R152's own bounds are closer; this one is all that the clamp needs. -/
theorem eval_mem_of_ne_user {sel : Selector} (hsel : sel ≠ .user) (coef : Window 32) {W : Lookback} {M : Int}
    (hW : ∀ (k : Nat) (hk : k < 16), -M ≤ W[k] ∧ W[k] ≤ M) :
    ∃ y, sel.eval coef W = .ok y ∧ -(93619 * M) ≤ y ∧ y ≤ 93619 * M := by
  obtain ⟨h0, h0'⟩ := hW 0 (by decide)
  obtain ⟨h1, h1'⟩ := hW 1 (by decide)
  obtain ⟨h2, h2'⟩ := hW 2 (by decide)
  obtain ⟨h3, h3'⟩ := hW 3 (by decide)
  obtain ⟨h4, h4'⟩ := hW 4 (by decide)
  obtain ⟨h5, h5'⟩ := hW 5 (by decide)
  cases sel with
  | user => exact absurd rfl hsel
  | off | recent | difference => exact ⟨_, rfl, by omega, by omega⟩
  | halfSecondDifference => exact ⟨_, rfl, by unfold halfSecondDifference asr; omega⟩
  | reversedDifference => exact ⟨_, rfl, by unfold reversedDifference; omega⟩
  | reversedHalfSecondDifference => exact ⟨_, rfl, by unfold reversedHalfSecondDifference asr; omega⟩
  | shiftedReversedDifference => exact ⟨_, rfl, by unfold shiftedReversedDifference; omega⟩
  | fir5 =>
    have := natAbs_rha_le (20330 * W[0] - 21650 * W[1] + 19590 * W[2] - 15900 * W[3] + 6149 * W[4])
      (d := 10000) (by decide)
    exact ⟨_, rfl, by unfold fir5; omega⟩
  | fir6 =>
    have := natAbs_rha_le (-10000 * W[0] + 20330 * W[1] - 21650 * W[2] + 19590 * W[3] - 15900 * W[4] + 6149 * W[5])
      (d := 10000) (by decide)
    exact ⟨_, rfl, by unfold fir6; omega⟩

/-- Without its least pattern a 17-bit element is at most 65535 in magnitude (R23). -/
theorem toInt_mem_of_ne_rwinNever {x : BitVec 17} (h : x ≠ rwinNever) : -65535 ≤ x.toInt ∧ x.toInt ≤ 65535 := by
  have hlo := BitVec.le_toInt x
  have hhi := BitVec.toInt_lt (x := x)
  have hnever : x.toInt ≠ -65536 := fun hx => h (BitVec.eq_of_toInt_eq hx)
  omega

/-- Over a legal RWIN a code up to 8 has a value that needs no clamp (R137, R152). -/
theorem exists_filterExact_rwin (h : s.RwinInRange) {code : BitVec 8} (hcode : code.toNat ≤ 8) :
    ∃ y, filterExact s.coef code (signedView s.rwin) = .ok y ∧ sat64 y = y := by
  obtain ⟨sel, hsel, huser⟩ := exists_ofCode_of_le hcode
  have hrwin (k : Nat) (hk : k < 16) : -65535 ≤ (signedView s.rwin)[k] ∧ (signedView s.rwin)[k] ≤ 65535 := by
    rw [signedView_getElem]
    exact toInt_mem_of_ne_rwinNever (h ⟨k, hk⟩)
  obtain ⟨y, hy, hlo, hhi⟩ := eval_mem_of_ne_user huser s.coef hrwin
  refine ⟨y, ?_, sat64_of_mem (by omega) (by omega)⟩
  rw [filterExact, hsel]
  exact hy

end Sys2Proof.Machine

open Sys2Proof.Machine

/-- Settles O40. -/
theorem ditherFilterNeverClamps : Obligations.DitherFilterNeverClamps := by
  intro s code hs hcode
  obtain ⟨y, hy, hsat⟩ := exists_filterExact_rwin hs hcode
  refine ⟨y, filter_eq_ok.mpr ⟨y, hy, hsat.symm, ?_⟩, hy⟩
  rw [hsat, bne_self_eq_false]
  rfl

end

section
/-! SUPPORT. The rounding RHA and the clamp to 64 bits, each as the formula the statements write (R9, R136). -/

namespace Sys2Proof.Machine

open Claims (roundHalfAway clamp64)

theorem rha_eq_roundHalfAway (n : Int) (d : Nat) : rha n d = roundHalfAway n d := by
  unfold rha roundHalfAway
  push_cast
  rfl

/-- RHA treats both signs alike (R136). -/
theorem rha_neg (n : Int) (d : Nat) : rha (-n) d = -rha n d := by
  simp [rha]

/-- From 0 up, RHA rounds to the nearest integer and a half up: `n/d` lies less than 1/2 above the result and at most 1/2
below it (R136). -/
theorem rha_mem_of_nonneg {n : Int} {d : Nat} (hd : 0 < d) (hn : 0 ≤ n) :
    0 ≤ rha n d ∧ 2 * n < 2 * (rha n d * d) + d ∧ 2 * (rha n d * d) ≤ 2 * n + d := by
  lift n to ℕ using hn
  have hrha : rha n d = ((2 * n + d) / (2 * d) : ℕ) := by
    obtain rfl | hpos := Nat.eq_zero_or_pos n
    · simp [rha, Nat.div_eq_of_lt (show d < 2 * d by omega)]
    · simp [rha, Int.sign_eq_one_of_pos (Int.natCast_pos.mpr hpos)]
  have hlo := Nat.div_mul_le_self (2 * n + d) (2 * d)
  have hhi := Nat.lt_div_mul_add (a := 2 * n + d) (b := 2 * d) (by omega)
  rw [hrha]
  generalize (2 * n + d) / (2 * d) = q at *
  rw [Nat.mul_left_comm] at hlo hhi
  norm_cast
  omega

/-- RHA is a nearest integer, and of two equally near ones the one further from zero (R136). -/
theorem rha_nearest (n : Int) {d : Nat} (hd : 0 < d) :
    2 * |n - rha n d * d| ≤ d ∧ (2 * |n - rha n d * d| = d → |n| < |rha n d * d|) := by
  wlog hn : 0 ≤ n generalizing n
  · have hneg := this (-n) (by omega)
    rwa [rha_neg, neg_mul, abs_neg, abs_neg, neg_sub_neg, abs_sub_comm] at hneg
  obtain ⟨hq, hlo, hhi⟩ := rha_mem_of_nonneg hd hn
  have hqd : 0 ≤ rha n d * d := by positivity
  generalize rha n d * d = m at *
  rw [abs_of_nonneg hn, abs_of_nonneg hqd]
  obtain ⟨habs, -⟩ | ⟨habs, -⟩ := abs_cases (n - m) <;> omega

/-- The same on the rational number that is rounded (R136). -/
theorem rha_nearest_rat (n : Int) {d : Nat} (hd : 0 < d) :
    |(rha n d : ℚ) - n / d| ≤ 1 / 2 ∧
      (|(rha n d : ℚ) - n / d| = 1 / 2 → |(n : ℚ) / d| < |(rha n d : ℚ)|) := by
  have hd' : (0 : ℚ) < d := by exact_mod_cast hd
  have hdist : |(rha n d : ℚ) - n / d| = |(n : ℚ) - rha n d * d| / d := by
    rw [abs_sub_comm, ← Nat.abs_cast d, ← abs_div, sub_div, Nat.abs_cast, mul_div_cancel_right₀ _ hd'.ne']
  obtain ⟨hnear, htie⟩ := rha_nearest n hd
  rw [hdist, abs_div, Nat.abs_cast, div_le_div_iff₀ hd' two_pos, div_eq_div_iff hd'.ne' two_ne_zero, div_lt_iff₀ hd',
    one_mul, mul_comm _ 2]
  rw [abs_mul, Nat.abs_cast] at htie
  exact_mod_cast And.intro hnear htie

/-- A rational number up to an integer in magnitude is not rounded past it. -/
theorem abs_rha_le {n c : Int} {d : Nat} (hd : 0 < d) (h : |n| ≤ c * d) : |rha n d| ≤ c := by
  have hnear := (rha_nearest n hd).1
  have htri := abs_sub_abs_le_abs_sub (rha n d * d) n
  rw [abs_sub_comm, abs_mul, Nat.abs_cast] at htri
  have hlt : |rha n d| * d < (c + 1) * d := by rw [add_mul]; omega
  exact Int.lt_add_one_iff.mp (lt_of_mul_lt_mul_right hlt (by positivity))

/-- An integer is not rounded. -/
theorem rha_mul_self (n : Int) {d : Nat} (hd : 0 < d) : rha (n * d) d = n := by
  have hnear := (rha_nearest (n * d) hd).1
  rw [← sub_mul, abs_mul, Nat.abs_cast, ← mul_assoc] at hnear
  have hle : 2 * |n - rha (n * d) d| ≤ 1 :=
    le_of_mul_le_mul_right (by rwa [one_mul]) (Int.natCast_pos.mpr hd)
  have hzero : n - rha (n * d) d = 0 := Int.abs_lt_one_iff.mp (by omega)
  omega

theorem sat64_eq_clamp64 (v : Int) : sat64 v = clamp64 v := by
  unfold sat64 sat clamp64 Config.accMin Config.accMax
  omega

/-- The clamp changes exactly the values outside the 64-bit range (R9). -/
theorem ne_sat64_iff (v : Int) : v ≠ sat64 v ↔ v < -2 ^ 63 ∨ 2 ^ 63 - 1 < v := by
  unfold sat64 sat Config.accMin Config.accMax
  omega

end Sys2Proof.Machine
end

section
/-! O34, O35, O37, O38. RHA, the fixed selectors' formulas, the codes without a filter, and the clamp of a filter's value
(R130, R134 to R146). -/

namespace Sys2Proof.Machine

open Claims (SelectorCode)

theorem ofCode_eq_none {code : BitVec 8} (h : ¬ SelectorCode code) : Selector.ofCode code = none := by
  rw [SelectorCode, not_or] at h
  unfold Selector.ofCode
  split
  case h_11 => rfl
  all_goals omega

end Sys2Proof.Machine

open Sys2Proof.Machine

/-- Settles O34. -/
theorem rhaIsNearestHalvesAway : Obligations.RhaIsNearestHalvesAway :=
  fun n d hd => ⟨rha_eq_roundHalfAway n d, rha_nearest n hd⟩

/-- Settles O35. The two selectors that round do so by RHA; the others are their formulas as they stand. -/
theorem fixedSelectorsComputeTheirFormulas : Obligations.FixedSelectorsComputeTheirFormulas := by
  intro coef W
  refine ⟨rfl, rfl, rfl, rfl, ?fir5, rfl, rfl, rfl, ?fir6⟩
  case fir5 => exact congrArg Except.ok (rha_eq_roundHalfAway _ 10000)
  case fir6 => exact congrArg Except.ok (rha_eq_roundHalfAway _ 10000)

/-- Settles O37. -/
theorem otherCodesHaveNoFilter : Obligations.OtherCodesHaveNoFilter := by
  intro coef code W hcode
  rw [filterExact, ofCode_eq_none hcode]

/-- Settles O38. -/
theorem filterClampsAndFlags : Obligations.FilterClampsAndFlags := by
  intro s code W y hy
  refine filter_eq_ok.mpr ⟨y, hy, (sat64_eq_clamp64 y).symm, ?_⟩
  simp only [State.raise, satIntBit, bne_iff_ne, ne_sat64_iff]
  split <;> rfl

end

section
/-! O39. How large a fixed selector's value gets over a window of values of a given magnitude (R152). -/

namespace Sys2Proof.Machine

/-- RHA of a numerator of magnitude at most `B` is at most `B / d` rounded up, the form of R152's bounds. -/
theorem abs_rha_le_ceil {n B : Int} {d : Nat} (hd : 0 < d) (h : |n| ≤ B) : |rha n d| ≤ ⌈(B : ℚ) / d⌉ := by
  refine abs_rha_le hd (h.trans ?_)
  have hceil := (div_le_iff₀ (by exact_mod_cast hd)).mp (Int.le_ceil ((B : ℚ) / d))
  exact_mod_cast hceil

theorem eq_of_toNat_le_eight {code : BitVec 8} (h : code.toNat ≤ 8) :
    code = 0 ∨ code = 1 ∨ code = 2 ∨ code = 3 ∨ code = 4 ∨ code = 5 ∨ code = 6 ∨ code = 7 ∨ code = 8 := by
  bv_omega

/-- R152's window, which alternates between the two extreme values over the six taps of the widest fixed selector. -/
def alternatingWindow : Lookback :=
  Vector.ofFn fun k => if 5 < k.val then 0 else if k.val % 2 = 0 then 65535 else -65535

/-- The two rounded values over that window and the two negative ones. -/
theorem values_alternatingWindow :
    fir5 alternatingWindow = 547997 ∧ reversedDifference alternatingWindow = -131070 ∧
      reversedHalfSecondDifference alternatingWindow = -65535 ∧ fir6 alternatingWindow = -613532 := by
  decide +kernel

end Sys2Proof.Machine

open Sys2Proof.Machine

/-- Settles O39. A value is at most the sum of its selector's absolute taps times `M`, or that sum over 10000 rounded
up. -/
theorem fixedSelectorsAreBounded : Obligations.FixedSelectorsAreBounded := by
  refine ⟨fun coef W M _ hW code y hcode hy => ?_, fun coef => ?_⟩
  · have hmem (k : Nat) (hk : k < 16) : -M ≤ W[k] ∧ W[k] ≤ M := abs_le.mp (hW ⟨k, hk⟩)
    obtain ⟨h0, h0'⟩ := hmem 0 (by decide)
    obtain ⟨h1, h1'⟩ := hmem 1 (by decide)
    obtain ⟨h2, h2'⟩ := hmem 2 (by decide)
    obtain ⟨h3, h3'⟩ := hmem 3 (by decide)
    obtain ⟨h4, h4'⟩ := hmem 4 (by decide)
    obtain ⟨h5, h5'⟩ := hmem 5 (by decide)
    obtain rfl | rfl | rfl | rfl | rfl | rfl | rfl | rfl | rfl := eq_of_toNat_le_eight hcode
    · obtain rfl : 0 = y := Except.ok.inj hy
      exact abs_le.mpr (by omega : -M ≤ 0 ∧ 0 ≤ M)
    · obtain rfl : W[0] = y := Except.ok.inj hy
      exact abs_le.mpr (by omega : -M ≤ W[0] ∧ W[0] ≤ M)
    · obtain rfl : W[0] - W[1] = y := Except.ok.inj hy
      show _ ≤ 2 * M
      exact abs_le.mpr (by omega)
    · obtain rfl : W[0] + (W[0] - 2 * W[1] + W[2]) / 2 = y := Except.ok.inj hy
      show _ ≤ 3 * M
      exact abs_le.mpr (by omega)
    · obtain rfl : fir5 W = y := Except.ok.inj hy
      show _ ≤ ⌈(83619 * M : ℚ) / 10000⌉
      exact_mod_cast abs_rha_le_ceil (B := 83619 * M) (d := 10000) (by decide) (abs_le.mpr (by omega))
    · obtain rfl : W[1] - W[0] = y := Except.ok.inj hy
      show _ ≤ 2 * M
      exact abs_le.mpr (by omega)
    · obtain rfl : W[0] + (2 * W[1] - W[0] - W[2]) / 2 = y := Except.ok.inj hy
      show _ ≤ 3 * M
      exact abs_le.mpr (by omega)
    · obtain rfl : W[2] - W[1] = y := Except.ok.inj hy
      show _ ≤ 2 * M
      exact abs_le.mpr (by omega)
    · obtain rfl : fir6 W = y := Except.ok.inj hy
      show _ ≤ ⌈(93619 * M : ℚ) / 10000⌉
      exact_mod_cast abs_rha_le_ceil (B := 93619 * M) (d := 10000) (by decide) (abs_le.mpr (by omega))
  · obtain ⟨h4, h5, h6, h8⟩ := values_alternatingWindow
    exact ⟨rfl, rfl, rfl, rfl, congrArg Except.ok h4, congrArg Except.ok h5, congrArg Except.ok h6, rfl,
      congrArg Except.ok h8⟩

end

section
/-! O47. The clamp to 64 bits leaves the residual inside the interval around the dither value (R166). -/

namespace Sys2Proof.Machine

/-- The exact residual lies within half an output step of minus the dither value (R166). -/
theorem residual_mem {f : Nat} (hf : 1 ≤ f) (P D : Int) :
    -D - 2 ^ (f - 1) ≤ residual f P D ∧ residual f P D < -D + 2 ^ (f - 1) := by
  obtain ⟨hlo, hhi⟩ := asr_bounds (biased f P D) f
  have hstep : (2 : Int) ^ f = 2 * 2 ^ (f - 1) := by rw [← pow_succ', Nat.sub_add_cancel hf]
  rw [residual, candidate]
  rw [add_mul, one_mul] at hhi
  rw [biased] at *
  omega

/-- An interval around a 64-bit number keeps its values through the clamp. -/
theorem sat64_mem_of_mem {r D h : Int} (hD : sat64 D = D) (hpos : 0 < h) (hr : -D - h ≤ r ∧ r < -D + h) :
    -D - h ≤ sat64 r ∧ sat64 r < -D + h := by
  have hmem := sat64_mem D
  rw [hD] at hmem
  unfold sat64 sat Config.accMin Config.accMax
  split
  · omega
  · split <;> omega

end Sys2Proof.Machine

open Sys2Proof.Machine

/-- Settles O47. The dither value of a fixed selector needs no clamp, so the residual's interval is around a 64-bit number. -/
theorem storedResidualIsBounded : Obligations.StoredResidualIsBounded := by
  intro s b hs hdsel
  obtain ⟨q, ⟨-, -, hrange, hd⟩, hexec, -⟩ := exec_quant_of_legal b hs
  obtain ⟨D, hD, hsat⟩ := exists_filterExact_rwin (s := s.filled) hrange hdsel
  obtain rfl : q.d = D := Except.ok.inj (hd.symm.trans hD)
  refine ⟨_, q.d, hexec, hd, ?_⟩
  rw [State.respond_ewin, quantized_ewin_zero_toInt, hsat]
  exact sat64_mem_of_mem hsat (by positivity) (residual_mem (Nat.le_add_left _ _) _ _)

end

section
/-! O36. The value of a binary32 pattern and the sum of selector 255 are the model's whole numbers in units of 2^(-149)
(R147, R160). -/

namespace Sys2Proof.Machine

open Claims (NotFinite f32Value userSumRat)

theorem f32Value_eq (b : Word) : f32Value b = f32Units b / 2 ^ 149 := by
  have hsign : b.toNat / 2 ^ 31 = if f32Sign b then 1 else 0 := by
    have hmsb : f32Sign b = decide (2 ^ 31 ≤ b.toNat) := BitVec.msb_eq_decide b
    have hlt : b.toNat < 2 ^ 32 := b.isLt
    simp only [hmsb, decide_eq_true_eq]
    split <;> omega
  have hfrac : b.toNat % 2 ^ 23 = f32Fraction b := by
    simp [f32Fraction, BitVec.extractLsb'_toNat]
  have hmagnitude : (if f32Exponent b = 0 then (f32Fraction b : ℚ) * 2 ^ (-149 : ℤ)
      else (2 ^ 23 + f32Fraction b : ℚ) * 2 ^ ((f32Exponent b : ℤ) - 150)) = f32Magnitude b / 2 ^ 149 := by
    unfold f32Magnitude
    split
    case isTrue => rw [zpow_neg, ← div_eq_mul_inv]; rfl
    case isFalse hE =>
      rw [show (f32Exponent b : ℤ) - 150 = (f32Exponent b - 1 : ℕ) - (149 : ℕ) by omega, zpow_sub₀ two_ne_zero,
        zpow_natCast, zpow_natCast, mul_div_assoc']
      norm_cast
  unfold f32Value
  simp only [← f32Exponent_eq, hfrac, hsign, hmagnitude, f32Units]
  split <;> simp [neg_div]

theorem userSum_eq_sum (coef : Window 32) (W : Lookback) :
    userSum coef W = ∑ i : Fin 16, f32Units coef[i] * W[i] := by
  rw [userSum, ← List.ofFn_eq_map, List.sum_ofFn]

theorem userSumRat_eq (coef : Window 32) (W : Lookback) : userSumRat coef W = userSum coef W / (2 ^ 149 : ℕ) := by
  rw [userSumRat, userSum_eq_sum]
  simp only [Int.cast_sum, Int.cast_mul, Nat.cast_pow, Nat.cast_ofNat, Finset.sum_div]
  refine Finset.sum_congr rfl fun i _ => ?_
  rw [f32Value_eq, div_mul_eq_mul_div]

theorem filterExact_user {coef : Window 32} (h : CoefFinite coef) (W : Lookback) :
    filterExact coef 255 W = .ok (rha (userSum coef W) (2 ^ 149)) :=
  if_pos h

end Sys2Proof.Machine

open Sys2Proof.Machine

/-- Settles O36. The exact sum is a numerator over 2^149, and RHA rounds it once. -/
theorem userFilterRoundsTheExactSum : Obligations.UserFilterRoundsTheExactSum := by
  intro coef W hfinite
  refine ⟨_, filterExact_user (fun i => (f32IsFinite_iff _).mpr (hfinite i)) W, ?_⟩
  rw [userSumRat_eq]
  exact rha_nearest_rat _ (by positivity)

end

section
/-! SUPPORT. What a sample's work reads of CFG is its fields alone, so a CFG with the same fields does the same work (R28,
R161). -/

namespace Sys2Proof.Machine

variable {s : State} {cfg : Word}

/-- `s` with another CFG. -/
def State.withCfg (cfg : Word) (s : State) : State := { s with cfg := cfg }

theorem filled_withCfg (hdecor : (s.withCfg cfg).decor = s.decor) : (s.withCfg cfg).filled = s.filled.withCfg cfg := by
  unfold State.filled
  rw [hdecor]
  rfl

theorem output_withCfg (hfix : (s.withCfg cfg).fixbits = s.fixbits) (b : Word) (q : Trace) :
    (s.withCfg cfg).output b q = s.output b q := by
  unfold State.output
  rw [hfix]

/-- With its two filter values given, a quantization reads DECOR and FIXM1 alone of CFG. -/
theorem quantized_withCfg (hdecor : (s.withCfg cfg).decor = s.decor) (hfix : (s.withCfg cfg).fixbits = s.fixbits)
    (b : Word) (q : Trace) : (s.withCfg cfg).quantized b q = (s.quantized b q).withCfg cfg := by
  unfold State.quantized
  rw [hfix]
  simp only [filled_raise, filled_withCfg hdecor]
  rfl

end Sys2Proof.Machine
end

section
/-! O55. Over the coefficients 1.0, 0, ... selector 255 has selector 1's value, so a session with ESEL = 255 runs as with
ESEL = 1 (R149). -/

namespace Sys2Proof.Machine

open Claims (unitCoef withEsel)

theorem userSum_unitCoef (W : Lookback) : userSum unitCoef W = W[0] * (2 ^ 149 : ℕ) := by
  have hone : f32Units unitCoef[(0 : Fin 16)] = 2 ^ 149 := by decide
  have hzero : ∀ i : Fin 16, i ≠ 0 → f32Units unitCoef[i] = 0 := by decide
  rw [userSum_eq_sum, Finset.sum_eq_single_of_mem 0 (Finset.mem_univ _) fun i _ hi => by rw [hzero i hi, zero_mul],
    hone, mul_comm]
  rfl

theorem filterExact_unitCoef (W : Lookback) : filterExact unitCoef 255 W = filterExact unitCoef 1 W := by
  rw [filterExact_user (by decide), userSum_unitCoef, rha_mul_self _ (by positivity)]
  rfl

/-- `withEsel` writes bits 7:0 and leaves the bits above them. -/
theorem getLsbD_withEsel (code : BitVec 8) (cfg : Word) {k : Nat} (hk : k < 32) :
    (withEsel code cfg).getLsbD k = if k < 8 then code.getLsbD k else cfg.getLsbD k := by
  have hmask : ∀ k < 32, (0xFFFFFF00#32).getLsbD k = decide (8 ≤ k) := by decide
  simp only [withEsel, BitVec.getLsbD_or, BitVec.getLsbD_and, hmask k hk, BitVec.getLsbD_setWidth, hk]
  split
  case isTrue hlow => simp [hlow]
  case isFalse hhigh => simp [not_lt.mp hhigh]

theorem extractLsb'_zero_withEsel (code : BitVec 8) (cfg : Word) : (withEsel code cfg).extractLsb' 0 8 = code := by
  refine BitVec.eq_of_getLsbD_eq fun i hi => ?_
  simp [hi, getLsbD_withEsel code cfg (show i < 32 by omega)]

theorem extractLsb'_withEsel (code : BitVec 8) (cfg : Word) {start len : Nat} (hlow : 8 ≤ start)
    (hhigh : start + len ≤ 32) : (withEsel code cfg).extractLsb' start len = cfg.extractLsb' start len := by
  refine BitVec.eq_of_getLsbD_eq fun i hi => ?_
  rw [BitVec.getLsbD_extractLsb', BitVec.getLsbD_extractLsb', getLsbD_withEsel code cfg (by omega), if_neg (by omega)]

variable {s : State}

/-- `s` with CFG.ESEL = 1 (R29). -/
def State.selectingOne (s : State) : State := s.withCfg (withEsel 1 s.cfg)

theorem decor_selectingOne : s.selectingOne.decor = s.decor := getLsbD_withEsel 1 s.cfg (by decide)

theorem fixbits_selectingOne : s.selectingOne.fixbits = s.fixbits :=
  congrArg (fun fixm1 : BitVec 4 => fixm1.toNat + 1) (extractLsb'_withEsel 1 s.cfg (by decide) (by decide))

theorem esel_selectingOne : s.selectingOne.esel = 1 := extractLsb'_zero_withEsel 1 s.cfg

theorem dsel_selectingOne : s.selectingOne.dsel = s.dsel := extractLsb'_withEsel 1 s.cfg (by decide) (by decide)

/-- Both states' filters have the same two values (R149, R163). -/
theorem traces_selectingOne {q : Trace} (hcoef : s.coef = unitCoef) (hesel : s.esel = 255) (h : s.Traces q) :
    s.selectingOne.Traces q := by
  obtain ⟨he, hlfsr, hrange, hd⟩ := h
  rw [hesel, hcoef, filterExact_unitCoef, ← hcoef] at he
  have hfilled : s.selectingOne.filled = s.filled.withCfg (withEsel 1 s.cfg) := filled_withCfg decor_selectingOne
  rw [State.Traces, hfilled, dsel_selectingOne, esel_selectingOne]
  exact ⟨he, hlfsr, hrange, hd⟩

/-- QUANT answers alike in both states, and leaves the same state but for ESEL. -/
theorem exec_quant_selectingOne {q : Trace} (b : Word) (h : s.selectingOne.Traces q) :
    exec (.quant 0 b) s.selectingOne =
      .next ((s.quantized b q).respond [sampleWord (s.output b q)]).selectingOne := by
  have hquant : s.selectingOne.quantized b q = (s.quantized b q).selectingOne :=
    quantized_withCfg decor_selectingOne fixbits_selectingOne b q
  have hout : s.selectingOne.output b q = s.output b q := output_withCfg fixbits_selectingOne b q
  rw [show exec (.quant 0 b) s.selectingOne = _ from execQuant_of_traces b h, hquant, hout]
  rfl

theorem execAll_convert_selectingOne (samples : List Word) (h : s.Legal) (hcoef : s.coef = unitCoef)
    (hesel : s.esel = 255) :
    ∃ t, execAll (convert false samples) s = .next t ∧
      execAll (convert false samples) s.selectingOne = .next t.selectingOne := by
  induction samples generalizing s with
  | nil => exact ⟨s, rfl, rfl⟩
  | cons b bs ih =>
    obtain ⟨q, hq, hexec, hlegal⟩ := exec_quant_of_legal b h
    obtain ⟨t, huser, hone⟩ := ih hlegal hcoef hesel
    refine ⟨t, ?_, ?_⟩
    · rw [convert_false_cons, execAll_cons_of_next hexec, huser]
    · rw [convert_false_cons, execAll_cons_of_next (exec_quant_selectingOne b (traces_selectingOne hcoef hesel hq)), hone]

end Sys2Proof.Machine

open Sys2Proof.Machine

/-- Settles O55. -/
theorem unitUserFilterIsSelectorOne : Obligations.UnitUserFilterIsSelectorOne :=
  ⟨filterExact_unitCoef, fun _ samples hs hcoef hesel => execAll_convert_selectingOne samples hs hcoef hesel⟩

end

section
/-! O41, O42. What a pattern decodes to, and what its sample scales to: a NaN, an infinity, or the exact value of a finite
pattern (R160, R162, R164). -/

namespace Sys2Proof.Machine

open Claims (NotFinite IsNan IsInf f32Value)

variable {b : Word}

theorem f32Fraction_eq (b : Word) : f32Fraction b = b.toNat % 2 ^ 23 := by
  simp [f32Fraction, BitVec.extractLsb'_toNat]

/-- A pattern is a NaN, an infinity or finite, one of the three (R160). -/
theorem pattern_cases (b : Word) :
    (IsNan b ∧ ¬ IsInf b) ∨ (¬ IsNan b ∧ IsInf b) ∨ (¬ IsNan b ∧ ¬ IsInf b ∧ ¬ NotFinite b) := by
  unfold IsNan IsInf
  tauto

theorem f32_of_isNan (h : IsNan b) : f32 b = .nan := by
  obtain ⟨hE, hF⟩ := h
  rw [f32, f32Exponent_eq, if_pos hE, f32Fraction_eq, if_neg hF]

theorem f32_of_isInf (h : IsInf b) : f32 b = .inf (b.getLsbD 31) := by
  obtain ⟨hE, hF⟩ := h
  rw [f32, f32Exponent_eq, if_pos hE, f32Fraction_eq, if_pos hF]
  rfl

theorem f32_of_finite (h : ¬ NotFinite b) : f32 b = .finite (f32Units b) := by
  rw [f32, f32Exponent_eq, if_neg h]

theorem scaleSample_of_isNan (f : Nat) (h : IsNan b) : scaleSample f b = .finite 0 := by
  rw [scaleSample, f32_of_isNan h]

theorem scaleSample_of_isInf (f : Nat) (h : IsInf b) :
    scaleSample f b = if b.getLsbD 31 then .negInf else .posInf := by
  rw [scaleSample, f32_of_isInf h]
  cases b.getLsbD 31 <;> rfl

/-- Shifting the units of 2^(-149) right by 149 places is the floor of the exact product (R162, R164). -/
theorem scaleSample_of_finite (f : Nat) (h : ¬ NotFinite b) :
    scaleSample f b = .finite ⌊f32Value b * 2 ^ (15 + f)⌋ := by
  have hproduct : f32Value b * 2 ^ (15 + f) = ((f32Units b * 2 ^ (15 + f) : ℤ) : ℚ) / ((2 ^ 149 : ℕ) : ℚ) := by
    rw [f32Value_eq, div_mul_eq_mul_div]
    push_cast
    rfl
  rw [scaleSample, f32_of_finite h, hproduct, Rat.floor_intCast_div_natCast]
  rfl

end Sys2Proof.Machine

open Sys2Proof.Machine

/-- Settles O41. -/
theorem sampleDecodingIsExact : Obligations.SampleDecodingIsExact := by
  intro b
  have hzero : f32Units 0x00000000#32 = 0 ∧ f32Units 0x80000000#32 = 0 := by decide
  obtain ⟨hpos, hneg⟩ := hzero
  refine ⟨f32_of_isNan, f32_of_isInf, fun h => ⟨_, f32_of_finite h, (f32Value_eq b).symm⟩, ?_, ?_⟩
  · rw [f32Value_eq, hpos, Int.cast_zero, zero_div]
  · rw [f32Value_eq, hneg, Int.cast_zero, zero_div]

/-- Settles O42. -/
theorem scalingIsExactThenFloors : Obligations.ScalingIsExactThenFloors :=
  fun f _ => ⟨scaleSample_of_finite f, scaleSample_of_isNan f, scaleSample_of_isInf f⟩

end

section
/-! O46. The exact residual (R166). -/

open Sys2Proof.Machine

/-- Settles O46. -/
theorem residualIsBoundedByTheDither : Obligations.ResidualIsBoundedByTheDither := by
  intro f P D hf
  obtain ⟨hlo, hhi⟩ := residual_mem hf P D
  refine ⟨hlo, hhi, ?_⟩
  rintro rfl
  rw [neg_zero, zero_sub] at hlo
  rw [neg_zero, zero_add] at hhi
  exact ⟨hlo, hhi⟩

end

section
/-! SUPPORT. What a quantization leaves in STATUS, as the flags of its events, and the response word (R35, R54, R161,
R167). -/

namespace Sys2Proof.Machine

open Claims (clamp16)

variable (s : State) (b : Word) (q : Trace)

theorem sat16_eq_clamp16 (v : Int) : sat16 v = clamp16 v := by
  unfold sat16 sat clamp16 Config.outMin Config.outMax
  omega

/-- QUANT's response word is the number that its output sample holds (R54 a). -/
theorem sampleWord_eq (out : BitVec 16) : sampleWord out = BitVec.ofInt 32 out.toInt := rfl

/-- The clamped sum of one quantization (R164). -/
def State.clampedSum (s : State) (b : Word) (q : Trace) : Int := q.preSum (scaleSample s.fixbits b)

/-- Its candidate output sample (R166). -/
def State.sampleCandidate (s : State) (b : Word) (q : Trace) : Int := candidate s.fixbits (s.clampedSum b q) (sat64 q.d)

/-- Its exact residual (R166). -/
def State.sampleResidual (s : State) (b : Word) (q : Trace) : Int := residual s.fixbits (s.clampedSum b q) (sat64 q.d)

theorem output_toInt : (s.output b q).toInt = sat16 (s.sampleCandidate b q) := toInt_ofInt_sat16 _

/-- The bits of an event: a flag if it happened (R35). -/
def flagIf (bits : Word) (p : Prop) [Decidable p] : Word := if p then bits else 0

theorem or_flagIf_of (status bits : Word) (c : Bool) :
    (if c then status ||| bits else status) = status ||| flagIf bits (c = true) := by
  cases c <;> simp [flagIf]

theorem flagIf_bne (bits : Word) (v w : Int) : flagIf bits ((v != w) = true) = flagIf bits (v ≠ w) := by
  by_cases h : v = w <;> simp [flagIf, h]

theorem flagIf_or (bits : Word) (p r : Prop) [Decidable p] [Decidable r] :
    flagIf bits p ||| flagIf bits r = flagIf bits (p ∨ r) := by
  by_cases p <;> by_cases r <;> simp [flagIf, *]

theorem quantized_status : (s.quantized b q).status = s.status |||
    flagIf nanInBit (f32IsNan b) |||
    flagIf satIntBit (q.e ≠ sat64 q.e ∨ q.d ≠ sat64 q.d ∨ s.sampleResidual b q ≠ sat64 (s.sampleResidual b q)) |||
    flagIf satAccBit (preSumClamped (scaleSample s.fixbits b) (sat64 q.e)) |||
    flagIf satOutBit (s.sampleCandidate b q ≠ sat16 (s.sampleCandidate b q)) := by
  unfold State.quantized
  simp only [State.raise_status, State.storeResidual_status, filled_status, or_flagIf_of, flagIf_bne, ← flagIf_or]
  simp only [State.sampleCandidate, State.sampleResidual, State.clampedSum]
  ac_rfl

end Sys2Proof.Machine
end

section
/-! O43, O44. The whole next state of QUANT, from the exact values of its two filters (R161, R168). -/

namespace Sys2Proof.Machine

open Claims (IsNan IsInf f32Value clamp64)

variable {s : State} {b : Word}

/-- The whole number that a sample scales to, if it is no infinity (R162, R164). -/
def sampleInt (f : Nat) (b : Word) : Int := if IsNan b then 0 else ⌊f32Value b * 2 ^ (15 + f)⌋

theorem scaleSample_of_not_isInf (f : Nat) (h : ¬ IsInf b) : scaleSample f b = .finite (sampleInt f b) := by
  obtain ⟨hnan, -⟩ | ⟨-, hinf⟩ | ⟨hnan, -, hfin⟩ := pattern_cases b
  · rw [scaleSample_of_isNan f hnan, sampleInt, if_pos hnan]
  · exact absurd hinf h
  · rw [scaleSample_of_finite f hfin, sampleInt, if_neg hnan]

/-- An infinite sample goes to the end of the range on its side, and every other sum is clamped (R164). -/
theorem preSum_scaleSample (f : Nat) (b : Word) (e : Int) : preSum (scaleSample f b) e =
    if IsInf b then (if b.getLsbD 31 then -2 ^ 63 else 2 ^ 63 - 1) else clamp64 (sampleInt f b + e) := by
  split
  case isTrue hinf =>
    rw [scaleSample_of_isInf f hinf]
    cases b.getLsbD 31 <;> rfl
  case isFalse hinf =>
    rw [scaleSample_of_not_isInf f hinf, ← sat64_eq_clamp64]
    rfl

theorem preSumClamped_scaleSample (f : Nat) (b : Word) (e : Int) : preSumClamped (scaleSample f b) e = true ↔
    IsInf b ∨ sampleInt f b + e ≠ clamp64 (sampleInt f b + e) := by
  by_cases hinf : IsInf b
  · rw [scaleSample_of_isInf f hinf]
    cases b.getLsbD 31 <;> exact iff_of_true rfl (.inl hinf)
  · rw [scaleSample_of_not_isInf f hinf, or_iff_right hinf, ← sat64_eq_clamp64]
    exact bne_iff_ne

theorem f32IsNan_iff (b : Word) : f32IsNan b = true ↔ IsNan b := by
  rw [f32IsNan, beq_iff_eq]
  obtain ⟨hnan, -⟩ | ⟨hnan, hinf⟩ | ⟨hnan, -, hfin⟩ := pattern_cases b
  · exact iff_of_true (f32_of_isNan hnan) hnan
  · exact iff_of_false (by rw [f32_of_isInf hinf]; nofun) hnan
  · exact iff_of_false (by rw [f32_of_finite hfin]; nofun) hnan

theorem flagIf_congr (bits : Word) {p r : Prop} [Decidable p] [Decidable r] (h : p ↔ r) :
    flagIf bits p = flagIf bits r :=
  if_congr h rfl rfl

/-- The mask keeps nothing of a flag outside it. -/
theorem flagIf_and {bits m : Word} (h : bits &&& m = 0) (p : Prop) [Decidable p] : flagIf bits p &&& m = 0 := by
  unfold flagIf
  split
  · exact h
  · exact BitVec.zero_and

/-- A sample leaves every bit of STATUS but its four flags, bits 8:5 (R35, R231). -/
theorem quantized_status_and (s : State) (b : Word) (q : Trace) :
    (s.quantized b q).status &&& 0xFFFFFE1F#32 = s.status &&& 0xFFFFFE1F#32 := by
  rw [quantized_status, or_and_of_and_eq_zero _ (flagIf_and (by decide) _),
    or_and_of_and_eq_zero _ (flagIf_and (by decide) _), or_and_of_and_eq_zero _ (flagIf_and (by decide) _),
    or_and_of_and_eq_zero _ (flagIf_and (by decide) _)]

end Sys2Proof.Machine

open Sys2Proof Sys2Proof.Machine Sys2Proof.Claims

/-- Settles O43. The trace's two values fix the sum, the candidate and the residual, and each flag is raised by its own
event. -/
theorem quantRunsTheSevenSteps : Obligations.QuantRunsTheSevenSteps := by
  intro s b hs f filled rwin
  obtain ⟨q, ⟨he, -, -, hd⟩, hexec, -⟩ := exec_quant_of_legal b hs
  refine ⟨q.e, q.d, he, hd, ?_⟩
  intro e D x P c r
  have hsum : s.clampedSum b q = P :=
    (congrArg _ (sat64_eq_clamp64 q.e)).trans (preSum_scaleSample f b e)
  have hcand : s.sampleCandidate b q = c := by
    rw [State.sampleCandidate, hsum, sat64_eq_clamp64]
    rfl
  have hresid : s.sampleResidual b q = r := by
    rw [State.sampleResidual, hsum, sat64_eq_clamp64]
    rfl
  have hstatus := quantized_status s b q
  rw [hcand, hresid, flagIf_congr nanInBit (f32IsNan_iff b),
    flagIf_congr satAccBit (preSumClamped_scaleSample s.fixbits b (sat64 q.e)), sat64_eq_clamp64, sat64_eq_clamp64,
    sat64_eq_clamp64, sat16_eq_clamp16] at hstatus
  have hewin : (s.quantized b q).ewin = push s.ewin (BitVec.ofInt 64 (clamp64 r)) := by
    rw [← sat64_eq_clamp64, ← hresid]
    rfl
  have hword : sampleWord (s.output b q) = BitVec.ofInt 32 (clamp16 c) := by
    rw [sampleWord_eq, output_toInt, hcand, sat16_eq_clamp16]
  calc exec (.quant 0 b) s
    _ = .next { s with
          lfsr := filled.2
          rwin := rwin
          ewin := (s.quantized b q).ewin
          status := (s.quantized b q).status
          responses := s.responses ++ [.ok [sampleWord (s.output b q)]] } := hexec
    _ = _ := by rw [hewin, hstatus, hword]; rfl

/-- Settles O44. -/
theorem quantRejectsReservedBitsAlone : Obligations.QuantRejectsReservedBitsAlone := by
  refine ⟨fun _ => rfl, fun s rsv b hrsv => ?_, fun s b hs => ?_⟩
  · exact exec_of_not_wellFormed (i := .quant rsv b) (by simpa [Instr.wellFormed] using hrsv) s
  · obtain ⟨q, -, hexec, -⟩ := exec_quant_of_legal b hs
    exact ⟨_, _, hexec, rfl, rfl, rfl, rfl, quantized_status_and s b q⟩

end

section
/-! SUPPORT. The numbers of a finite sample's quantization when a filter is off (R138, R161, R164). -/

namespace Sys2Proof.Machine

open Claims (NotFinite IsNan IsInf f32Value)

variable {s : State} {b : Word} {q : Trace}

theorem sat64_zero : sat64 0 = 0 := by decide

theorem trace_e_of_esel_zero (hesel : s.esel = 0) (hq : s.Traces q) : q.e = 0 := by
  obtain ⟨he, -⟩ := hq
  rw [hesel, filterExact_zero] at he
  exact (Except.ok.inj he).symm

theorem trace_d_of_filterExact {D : Int} (hD : filterExact s.coef s.dsel (signedView s.filled.rwin) = .ok D)
    (hq : s.Traces q) : q.d = D := by
  obtain ⟨-, -, -, hd⟩ := hq
  exact Except.ok.inj (hd.symm.trans hD)

theorem fixbits_mem (s : State) : 1 ≤ s.fixbits ∧ s.fixbits ≤ 16 :=
  ⟨Nat.le_add_left _ _, Nat.succ_le_of_lt (BitVec.isLt _)⟩

theorem clampedSum_of_not_isInf (h : ¬ IsInf b) :
    s.clampedSum b q = sat64 (sampleInt s.fixbits b + sat64 q.e) := by
  rw [State.clampedSum, scaleSample_of_not_isInf _ h]
  rfl

theorem not_isInf_of_finite (h : ¬ NotFinite b) : ¬ IsInf b := fun hinf => h hinf.left

theorem sampleInt_of_finite (f : Nat) (h : ¬ NotFinite b) : sampleInt f b = ⌊f32Value b * 2 ^ (15 + f)⌋ :=
  if_neg fun hnan => h hnan.left

/-- The residual that a sample leaves in EWIN[0] (R166). -/
theorem ewin_zero_quantized : (s.quantized b q).ewin[0].toInt = sat64 (s.sampleResidual b q) :=
  quantized_ewin_zero_toInt s b q

end Sys2Proof.Machine
end

section
/-! O45. With both filters off, a sample is rounded half up at the output scale (R169). -/

namespace Sys2Proof.Machine

open Claims (IsInf)

variable {s : State} {b : Word} {q : Trace}

/-- A sum beyond the 64-bit range is beyond the output range too once it is shifted, so its clamp is not seen in the output
sample (R167, R169). -/
theorem sat16_candidate_sat64 {f : Nat} (hf : f ≤ 16) (x : Int) :
    sat16 (candidate f (sat64 x) 0) = sat16 (candidate f x 0) := by
  have hpos : (0 : Int) < 2 ^ f := by positivity
  have hstep : (2 : Int) ^ f ≤ 2 ^ 16 := pow_le_pow_right₀ (by decide) hf
  have hhalf : (0 : Int) < 2 ^ (f - 1) := by positivity
  have hhalf' : (2 : Int) ^ (f - 1) ≤ 2 ^ f := pow_le_pow_right₀ (by decide) (Nat.sub_le f 1)
  have high {v : Int} (hv : 2 ^ 63 - 1 ≤ v) : sat16 (candidate f v 0) = 32767 := by
    have : 32767 ≤ candidate f v 0 := Int.le_ediv_of_mul_le hpos (by unfold biased; omega)
    unfold sat16 sat Config.outMin Config.outMax
    omega
  have low {v : Int} (hv : v ≤ -2 ^ 63) : sat16 (candidate f v 0) = -32768 := by
    have : candidate f v 0 < -32768 := Int.ediv_lt_of_lt_mul hpos (by unfold biased; omega)
    unfold sat16 sat Config.outMin Config.outMax
    omega
  by_cases hx : x = sat64 x
  · rw [← hx]
  · obtain hx | hx := (ne_sat64_iff x).mp hx
    · have hsat : sat64 x = -2 ^ 63 := if_pos hx
      rw [hsat, low le_rfl, low hx.le]
    · have hsat : sat64 x = 2 ^ 63 - 1 := by
        unfold sat64 sat Config.accMin Config.accMax
        omega
      rw [hsat, high le_rfl, high hx.le]

/-- The candidate of an unclamped sample is the sample rounded half up at the output scale, whatever fixbits is (R169). -/
theorem candidate_floor {f : Nat} (hf : 1 ≤ f) (v : ℚ) :
    candidate f ⌊v * 2 ^ (15 + f)⌋ 0 = ⌊v * 2 ^ 15 + 1 / 2⌋ := by
  have hstep : (2 : ℚ) * 2 ^ (f - 1) = 2 ^ f := mul_pow_sub_one (by omega) 2
  have hscaled : v * 2 ^ 15 + 1 / 2 = (v * 2 ^ (15 + f) + ((2 ^ (f - 1) : ℤ) : ℚ)) / ((2 ^ f : ℕ) : ℚ) := by
    push_cast
    rw [pow_add, ← hstep]
    field_simp
  rw [hscaled, Int.floor_div_natCast, Int.floor_add_intCast, candidate, asr, biased, add_zero]
  push_cast
  rfl

/-- With both filters off, the output sample is the rounded sample, clamped (R169). -/
theorem output_of_filters_off (hesel : s.esel = 0) (hdsel : s.dsel = 0) (hq : s.Traces q) (hinf : ¬ IsInf b) :
    (s.output b q).toInt = sat16 (candidate s.fixbits (sampleInt s.fixbits b) 0) := by
  rw [output_toInt, State.sampleCandidate, clampedSum_of_not_isInf hinf, trace_e_of_esel_zero hesel hq,
    trace_d_of_dsel_zero hdsel hq, sat64_zero, add_zero, sat16_candidate_sat64 (fixbits_mem s).right]

/-- Half a step is rounded down to 0. -/
theorem candidate_zero {f : Nat} (hf : 1 ≤ f) : candidate f 0 0 = 0 := by
  have hstep : (2 : Int) * 2 ^ (f - 1) = 2 ^ f := mul_pow_sub_one (by omega) 2
  have hpos : (0 : Int) < 2 ^ (f - 1) := by positivity
  rw [candidate, asr, biased]
  exact Int.ediv_eq_zero_of_lt (by omega) (by omega)

end Sys2Proof.Machine

open Sys2Proof Sys2Proof.Machine Sys2Proof.Claims

/-- Settles O45. -/
theorem withoutDitherOrFeedbackQuantRounds : Obligations.WithoutDitherOrFeedbackQuantRounds := by
  intro s b hs hdsel hesel
  obtain ⟨q, hq, hexec, -⟩ := exec_quant_of_legal b hs
  obtain ⟨hfix, -⟩ := fixbits_mem s
  refine ⟨fun hfin => ⟨_, hexec, ?_⟩, fun hnan => ⟨_, hexec, ?_⟩⟩
  · rw [State.respond_responses, quantized_responses, sampleWord_eq,
      output_of_filters_off hesel hdsel hq (not_isInf_of_finite hfin), sampleInt_of_finite _ hfin,
      candidate_floor hfix, sat16_eq_clamp16]
  · rw [State.respond_responses, quantized_responses, sampleWord_eq,
      output_of_filters_off hesel hdsel hq (fun hinf => hnan.right hinf.right), sampleInt, if_pos hnan,
      candidate_zero hfix]
    rfl

end

section
/-! O48. A sample of +1.5 at fixbits 16 (R173). -/

namespace Sys2Proof.Machine

variable {s : State} {q : Trace} {D : Int}

/-- +1.5 is 49152 output steps, and half a step and the dither value move the candidate by one step at most. -/
theorem candidate_onePointFive (hD : |D| ≤ 65535) :
    candidate 16 3221225472 D = if D < -32768 then 49151 else if D < 32768 then 49152 else 49153 := by
  obtain ⟨hlo, hhi⟩ := abs_le.mp hD
  unfold candidate asr biased
  split
  · omega
  · split <;> omega

theorem residual_onePointFive (hD : |D| ≤ 65535) :
    residual 16 3221225472 D = if D < -32768 then 65536 else if D < 32768 then 0 else -65536 := by
  rw [residual, candidate_onePointFive hD]
  split
  · rfl
  · split <;> rfl

theorem clampedSum_onePointFive (hesel : s.esel = 0) (hfix : s.fixbits = 16) (hq : s.Traces q) :
    s.clampedSum 0x3FC00000#32 q = 3221225472 := by
  rw [State.clampedSum, Trace.preSum, hfix, trace_e_of_esel_zero hesel hq]
  decide +kernel

/-- What a sample of +1.5 answers and leaves, with a dither value of at most 65535 in magnitude (R173). -/
theorem quantized_onePointFive (hesel : s.esel = 0) (hfix : s.fixbits = 16) (hq : s.Traces q) (hD : |q.d| ≤ 65535) :
    (s.output 0x3FC00000#32 q).toInt = 32767 ∧ (s.quantized 0x3FC00000#32 q).status.getLsbD 5 = true ∧
      (s.quantized 0x3FC00000#32 q).ewin[0].toInt =
        if q.d < -32768 then 65536 else if q.d < 32768 then 0 else -65536 := by
  have hsum := clampedSum_onePointFive hesel hfix hq
  obtain ⟨hlo, hhi⟩ := abs_le.mp hD
  have hd : sat64 q.d = q.d := sat64_of_mem (by omega) (by omega)
  have hbig : 32767 < s.sampleCandidate 0x3FC00000#32 q := by
    rw [State.sampleCandidate, hsum, hfix, hd, candidate_onePointFive hD]
    split
    · decide
    · split <;> decide
  have hsat : sat16 (s.sampleCandidate 0x3FC00000#32 q) = 32767 := by
    unfold sat16 sat Config.outMin Config.outMax
    omega
  refine ⟨by rw [output_toInt, hsat], ?_, ?_⟩
  · have hflag : flagIf satOutBit (s.sampleCandidate 0x3FC00000#32 q ≠ sat16 (s.sampleCandidate 0x3FC00000#32 q)) =
        satOutBit := if_pos (by rw [hsat]; exact hbig.ne')
    rw [quantized_status, hflag, BitVec.getLsbD_or]
    exact Bool.or_eq_true_iff.mpr (.inr rfl)
  · rw [ewin_zero_quantized, State.sampleResidual, hsum, hfix, hd, residual_onePointFive hD]
    split
    · rfl
    · split <;> rfl

end Sys2Proof.Machine

open Sys2Proof Sys2Proof.Machine Sys2Proof.Claims

/-- Settles O48. -/
theorem onePointFiveSaturates : Obligations.OnePointFiveSaturates := by
  refine ⟨fun s D hs hesel hfix hD hDmem => ?_, ?_⟩
  · obtain ⟨q, hq, hexec, -⟩ := exec_quant_of_legal 0x3FC00000#32 hs
    obtain rfl : q.d = D := trace_d_of_filterExact hD hq
    obtain ⟨hout, hflag, hresid⟩ := quantized_onePointFive hesel hfix hq hDmem
    refine ⟨_, hexec, ?_, hflag, hresid⟩
    rw [State.respond_responses, quantized_responses, sampleWord_eq, hout]
    rfl
  · obtain ⟨q, hq, hexec, -⟩ := exec_quant_of_legal 0x3FC00000#32 legal_reset
    have hfill : (fillValue State.reset.decor State.reset.lfsr).1 = 9019 := by decide +kernel
    have hdither : filterExact State.reset.coef State.reset.dsel (signedView State.reset.filled.rwin) = .ok 9019 := by
      decide +kernel
    have hd : q.d = 9019 := trace_d_of_filterExact hdither hq
    obtain ⟨-, -, hresid⟩ := quantized_onePointFive rfl rfl hq (by rw [hd]; decide)
    refine ⟨_, hexec, ?_, ?_⟩
    · rw [State.respond_rwin, quantized_rwin_zero_toInt, hfill]
    · rw [State.respond_ewin, hresid, hd]
      rfl

end

section
/-! O49. With ESEL = 1 and no dither each sample's residual goes into the next sample's sum, so what a conversion's outputs
lose is the last residual less the first (R163, R166, R174). -/

namespace Sys2Proof.Machine

open Claims (NotFinite f32Value)

variable {s t : State} {b : Word} {q : Trace}

/-- With selector 1 the error term is the residual of the sample before (R139, R163). -/
theorem trace_e_of_esel_one (hesel : s.esel = 1) (hq : s.Traces q) : q.e = s.ewin[0].toInt := by
  obtain ⟨he, -⟩ := hq
  rw [hesel, show filterExact s.coef 1 (signedView s.ewin) = .ok (signedView s.ewin)[0] from rfl,
    signedView_getElem] at he
  exact (Except.ok.inj he).symm

/-- The stored residual is at most half an output step: the invariant of the feedback loop (R166, R174). -/
def State.HalfStep (s : State) : Prop :=
  -(2 : Int) ^ (s.fixbits - 1) ≤ s.ewin[0].toInt ∧ s.ewin[0].toInt < (2 : Int) ^ (s.fixbits - 1)

/-- A finite sample of magnitude at most 1/2 is at most 2^14 output steps (R162). -/
theorem sampleInt_mem (f : Nat) (hfin : ¬ NotFinite b) (hmag : |f32Value b| ≤ 1 / 2) :
    -(2 ^ 14 * 2 ^ f) ≤ sampleInt f b ∧ sampleInt f b ≤ 2 ^ 14 * 2 ^ f := by
  obtain ⟨hlo, hhi⟩ := abs_le.mp hmag
  have hpos : (0 : ℚ) < 2 ^ 14 * 2 ^ f := by positivity
  have hscale : f32Value b * 2 ^ (15 + f) = 2 * (f32Value b * (2 ^ 14 * 2 ^ f)) := by rw [pow_add]; ring
  have hlo' := mul_le_mul_of_nonneg_right hlo hpos.le
  have hhi' := mul_le_mul_of_nonneg_right hhi hpos.le
  rw [sampleInt_of_finite f hfin, hscale]
  constructor
  · refine Int.le_floor.mpr ?_
    push_cast
    linarith only [hlo']
  · refine Int.floor_le_iff.mpr ?_
    push_cast
    linarith only [hhi']

/-- Without dither, a sum of at most 2^14 output steps and half a step gives a candidate of at most 2^14 (R165, R166). -/
theorem candidate_mem {f : Nat} (hf : 1 ≤ f) {x e : Int} (hx : -(2 ^ 14 * 2 ^ f) ≤ x ∧ x ≤ 2 ^ 14 * 2 ^ f)
    (he : -2 ^ (f - 1) ≤ e ∧ e < 2 ^ (f - 1)) : -2 ^ 14 ≤ candidate f (x + e) 0 ∧ candidate f (x + e) 0 ≤ 2 ^ 14 := by
  have hpos : (0 : Int) < 2 ^ f := by positivity
  have hstep : (2 : Int) * 2 ^ (f - 1) = 2 ^ f := mul_pow_sub_one (by omega) 2
  rw [candidate, asr, biased, add_zero]
  exact ⟨Int.le_ediv_of_mul_le hpos (by omega), Int.lt_add_one_iff.mp (Int.ediv_lt_of_lt_mul hpos (by omega))⟩

/-- In the closed loop the sum of a sample of at most 1/2 and the residual before it needs no clamp (R164, R174). -/
theorem clampedSum_of_halfStep (hesel : s.esel = 1) (hhalf : s.HalfStep) (hq : s.Traces q) (hfin : ¬ NotFinite b)
    (hmag : |f32Value b| ≤ 1 / 2) : s.clampedSum b q = sampleInt s.fixbits b + s.ewin[0].toInt := by
  obtain ⟨hf, hf16⟩ := fixbits_mem s
  obtain ⟨hxlo, hxhi⟩ := sampleInt_mem s.fixbits hfin hmag
  obtain ⟨helo, hehi⟩ := hhalf
  have hpow : (2 : Int) ^ s.fixbits ≤ 2 ^ 16 := pow_le_pow_right₀ (by decide) hf16
  have hstep : (2 : Int) * 2 ^ (s.fixbits - 1) = 2 ^ s.fixbits := mul_pow_sub_one (by omega) 2
  obtain ⟨hlo, hhi⟩ := toInt64_mem s.ewin[0]
  rw [clampedSum_of_not_isInf (not_isInf_of_finite hfin), trace_e_of_esel_one hesel hq, sat64_of_mem hlo hhi]
  exact sat64_of_mem (by omega) (by omega)

/-- One sample in the closed loop: nothing is clamped, so the sample less its output is the new residual less the old, and
the new one is at most half a step again (R166, R174). -/
theorem quantized_conserves (hesel : s.esel = 1) (hdsel : s.dsel = 0) (hhalf : s.HalfStep) (hq : s.Traces q)
    (hfin : ¬ NotFinite b) (hmag : |f32Value b| ≤ 1 / 2) :
    sampleInt s.fixbits b - 2 ^ s.fixbits * (s.output b q).toInt =
        (s.quantized b q).ewin[0].toInt - s.ewin[0].toInt ∧ (s.quantized b q).HalfStep := by
  obtain ⟨hf, hf16⟩ := fixbits_mem s
  have hsum := clampedSum_of_halfStep hesel hhalf hq hfin hmag
  have hd : sat64 q.d = 0 := by rw [trace_d_of_dsel_zero hdsel hq, sat64_zero]
  have hhalfStep : (2 : Int) ^ (s.fixbits - 1) ≤ 2 ^ 15 := pow_le_pow_right₀ (by decide) (by omega)
  obtain ⟨hclo, hchi⟩ := candidate_mem hf (sampleInt_mem s.fixbits hfin hmag) hhalf
  obtain ⟨hrlo, hrhi⟩ := residual_mem hf (sampleInt s.fixbits b + s.ewin[0].toInt) 0
  have hout : (s.output b q).toInt = candidate s.fixbits (sampleInt s.fixbits b + s.ewin[0].toInt) 0 := by
    rw [output_toInt, State.sampleCandidate, hsum, hd]
    exact sat16_of_mem (by omega) (by omega)
  have hewin : (s.quantized b q).ewin[0].toInt = residual s.fixbits (sampleInt s.fixbits b + s.ewin[0].toInt) 0 := by
    rw [ewin_zero_quantized, State.sampleResidual, hsum, hd]
    exact sat64_of_mem (by omega) (by omega)
  rw [State.HalfStep, hewin, hout, quantized_fixbits]
  refine ⟨?_, by omega, by omega⟩
  rw [residual]
  ring

/-- A conversion in the closed loop: the samples' differences add up, each new residual cancelled by the next (R174). -/
theorem converts_conserves {samples : List Word} {outs : List (BitVec 16)} (h : s.Converts samples t outs)
    (hesel : s.esel = 1) (hdsel : s.dsel = 0) (hhalf : s.HalfStep)
    (hall : ∀ b ∈ samples, ¬ NotFinite b ∧ |f32Value b| ≤ 1 / 2) :
    t.fixbits = s.fixbits ∧ t.HalfStep ∧
      (samples.map fun b => ⌊f32Value b * 2 ^ (15 + s.fixbits)⌋).sum - 2 ^ s.fixbits * (outs.map BitVec.toInt).sum =
        t.ewin[0].toInt - s.ewin[0].toInt := by
  induction h with
  | nil s => exact ⟨rfl, hhalf, by simp⟩
  | @cons s t b bs outs q hq _ ih =>
    obtain ⟨⟨hfin, hmag⟩, hall⟩ := List.forall_mem_cons.mp hall
    obtain ⟨hone, hhalf⟩ := quantized_conserves hesel hdsel hhalf hq hfin hmag
    obtain ⟨hfix, hhalf, hrest⟩ := ih hesel hdsel hhalf hall
    refine ⟨hfix, hhalf, ?_⟩
    rw [quantized_fixbits] at hrest
    rw [sampleInt_of_finite _ hfin] at hone
    simp only [List.map_cons, List.sum_cons, mul_add]
    linarith only [hone, hrest]

end Sys2Proof.Machine

open Sys2Proof Sys2Proof.Machine Sys2Proof.Claims

/-- Settles O49. -/
theorem errorFeedbackConservesTheSignal : Obligations.ErrorFeedbackConservesTheSignal := by
  intro s samples hs hesel hdsel hlo hhi hall
  obtain ⟨t, outs, hc⟩ := exists_converts_of_legal samples hs
  obtain ⟨new, hrun, hnew⟩ := outputs_of_expands (expands_convert false samples) hc nofun
  obtain ⟨hfix, hhalf, hsum⟩ := converts_conserves hc hesel hdsel ⟨hlo, hhi⟩ hall
  rw [State.HalfStep, hfix] at hhalf
  exact ⟨_, new, hrun, rfl, by rw [hnew]; exact hsum, hhalf⟩

end

section
/-! O51. QUANT4 is four QUANTs, answered together (R54, R171). -/

namespace Sys2Proof.Machine

variable {s : State}

/-- The later lane stands 16 bits above the earlier (R54 b). -/
theorem laneWord_eq (earlier later : BitVec 16) :
    laneWord earlier later = BitVec.ofNat 32 (later.toNat * 2 ^ 16 + earlier.toNat) := by
  have hlt := earlier.isLt
  refine BitVec.eq_of_toNat_eq ?_
  rw [laneWord, BitVec.toNat_append, BitVec.toNat_ofNat, Nat.shiftLeft_eq, mul_comm, ← Nat.two_pow_add_eq_or_of_lt hlt]
  omega

/-- With FAST = 0, QUANT4 is rejected with NOT_FAST (R171). -/
theorem execQuant4_of_not_fast (b0 b1 b2 b3 : Word) (h : s.fast = false) :
    execQuant4 0 b0 b1 b2 b3 s = .next (s.reject .notFast) := by
  unfold execQuant4
  rw [if_neg (not_not.mpr rfl), h]
  rfl

/-- From a legal state every lane's filters have values (R161, R171). -/
theorem exists_lanes_of_legal (b0 b1 b2 b3 : Word) (h : s.Legal) : ∃ l : Lanes b0 b1 b2 b3 s, l.Valid := by
  obtain ⟨q0, h0⟩ := exists_traces_of_legal h
  have legal1 := legal_quantized b0 q0 h
  obtain ⟨q1, h1⟩ := exists_traces_of_legal legal1
  have legal2 := legal_quantized b1 q1 legal1
  obtain ⟨q2, h2⟩ := exists_traces_of_legal legal2
  obtain ⟨q3, h3⟩ := exists_traces_of_legal (legal_quantized b2 q2 legal2)
  exact ⟨⟨q0, q1, q2, q3⟩, h0, h1, h2, h3⟩

/-- QUANT at the head of a list of commands does its sample and adds its response (R57, R168). -/
theorem execAll_quant_cons {b : Word} {q : Trace} (h : s.Traces q) (rs : List Response) (is : List Instr) :
    execAll (.quant 0 b :: is) (s.withResponses rs) =
      execAll is ((s.quantized b q).withResponses (rs ++ [.ok [sampleWord (s.output b q)]])) :=
  execAll_cons_of_next (i := .quant 0 b) (execQuant_of_traces (s := s.withResponses rs) b h) is

theorem Lanes.responses_s4 {b0 b1 b2 b3 : Word} (l : Lanes b0 b1 b2 b3 s) : l.s4.responses = s.responses := rfl

/-- Four QUANTs of samples whose filters have values leave the state of the four lanes, each with its own response (R168,
R171). -/
theorem execAll_quants_of_lanes {b0 b1 b2 b3 : Word} (l : Lanes b0 b1 b2 b3 s) (h : l.Valid) :
    execAll [.quant 0 b0, .quant 0 b1, .quant 0 b2, .quant 0 b3] s = .next (l.s4.withResponses (s.responses ++
      [.ok [sampleWord (s.output b0 l.q0)], .ok [sampleWord (l.s1.output b1 l.q1)],
        .ok [sampleWord (l.s2.output b2 l.q2)], .ok [sampleWord (l.s3.output b3 l.q3)]])) := by
  obtain ⟨h0, h1, h2, h3⟩ := h
  refine (execAll_quant_cons h0 s.responses _).trans ?_
  refine (execAll_quant_cons h1 _ _).trans ?_
  refine (execAll_quant_cons h2 _ _).trans ?_
  refine (execAll_quant_cons h3 _ _).trans ?_
  simp only [List.append_assoc, List.cons_append, List.nil_append]
  rfl

end Sys2Proof.Machine

open Sys2Proof Sys2Proof.Machine Sys2Proof.Claims

/-- Settles O51. -/
theorem quant4IsFourQuants : Obligations.Quant4IsFourQuants := by
  refine ⟨fun _ _ _ _ => rfl, fun s rsv b0 b1 b2 b3 hrsv => ?_, fun s b0 b1 b2 b3 hfast => ?_,
    fun s b0 b1 b2 b3 hs hfast => ?_⟩
  · exact exec_of_not_wellFormed (i := .quant4 rsv b0 b1 b2 b3) (by simpa [Instr.wellFormed] using hrsv) s
  · exact execQuant4_of_not_fast b0 b1 b2 b3 hfast
  · obtain ⟨l, hl⟩ := exists_lanes_of_legal b0 b1 b2 b3 hs
    have hquant4 := execQuant4_of_lanes l hfast hl
    rw [Lanes.words, laneWord_eq, laneWord_eq, State.respond, l.responses_s4] at hquant4
    exact ⟨l.s4, _, _, _, _, execAll_quants_of_lanes l hl, hquant4⟩

end

section
/-! O52. CFG.FAST is none of the fields that a sample's work reads (R161, R170). -/

namespace Sys2Proof.Machine

variable {s : State} {cfg : Word} {q : Trace}

/-- A CFG with the same selectors and DECOR gives a sample's two filters the same values. -/
theorem traces_withCfg (hesel : (s.withCfg cfg).esel = s.esel) (hdsel : (s.withCfg cfg).dsel = s.dsel)
    (hdecor : (s.withCfg cfg).decor = s.decor) (h : s.Traces q) : (s.withCfg cfg).Traces q := by
  obtain ⟨he, hlfsr, hrange, hd⟩ := h
  rw [State.Traces, filled_withCfg hdecor, hesel, hdsel]
  exact ⟨he, hlfsr, hrange, hd⟩

/-- CFG with FAST, bit 27, the other way (R33). -/
def flipFast (cfg : Word) : Word := cfg ^^^ 0x08000000#32

/-- Flipping FAST leaves every field that has no bit in its place. -/
theorem extractLsb'_flipFast (cfg : Word) {start len : Nat}
    (h : (0x08000000#32).extractLsb' start len = 0) : (flipFast cfg).extractLsb' start len = cfg.extractLsb' start len := by
  rw [flipFast, BitVec.extractLsb'_xor, h]
  exact BitVec.xor_zero

theorem fields_flipFast (s : State) :
    (s.withCfg (flipFast s.cfg)).esel = s.esel ∧ (s.withCfg (flipFast s.cfg)).dsel = s.dsel ∧
      (s.withCfg (flipFast s.cfg)).decor = s.decor ∧ (s.withCfg (flipFast s.cfg)).fixbits = s.fixbits := by
  refine ⟨extractLsb'_flipFast s.cfg (by decide), extractLsb'_flipFast s.cfg (by decide), ?_,
    congrArg (fun fixm1 : BitVec 4 => fixm1.toNat + 1) (extractLsb'_flipFast s.cfg (by decide))⟩
  have hbit : (flipFast s.cfg).getLsbD 16 = (s.cfg.getLsbD 16 ^^ (0x08000000#32).getLsbD 16) := BitVec.getLsbD_xor
  exact hbit.trans (Bool.xor_false _)

end Sys2Proof.Machine

open Sys2Proof Sys2Proof.Machine Sys2Proof.Claims

/-- Settles O52. The flipped CFG gives the same trace, and with it the same work. -/
theorem fastChangesNoValue : Obligations.FastChangesNoValue := by
  intro s b hs
  obtain ⟨q, hq, hexec, -⟩ := exec_quant_of_legal b hs
  obtain ⟨hesel, hdsel, hdecor, hfix⟩ := fields_flipFast s
  refine ⟨_, hexec, ?_⟩
  have hflipped := execQuant_of_traces b (traces_withCfg hesel hdsel hdecor hq)
  rw [quantized_withCfg hdecor hfix, output_withCfg hfix] at hflipped
  exact hflipped

end

section
/-! O23. CFG's checks in the order of R194, and the register value of an accepted CFG as a number (R28, R74, R194). -/

namespace Sys2Proof.Machine

open Claims (SelectorCode rejectedWith)

/-- The model's rejection is R221's, with the code of R222. -/
theorem reject_eq_rejectedWith (code : RejectCode) (s : State) : s.reject code = rejectedWith code.code.toNat s := by
  cases code <;> rfl

theorem selectorLegal_iff (code : BitVec 8) : selectorLegal code = true ↔ SelectorCode code := by
  refine ⟨fun h => ?_, ?_⟩
  · by_contra hcode
    rw [selectorLegal, ofCode_eq_none hcode] at h
    cases h
  · rintro (hle | huser)
    · obtain ⟨sel, hsel, -⟩ := exists_ofCode_of_le hle
      rw [selectorLegal, hsel, Option.isSome_some]
    · obtain rfl : code = 255 := BitVec.eq_of_toNat_eq huser
      rfl

theorem fastAllowed_iff (fixm1 : BitVec 4) (decor : BitVec 1) (dsel esel : BitVec 8) :
    fastAllowed fixm1 decor dsel esel = true ↔ dsel = 2 ∧ decor = 0 ∧ esel = 0 ∧ fixm1 = 15 := by
  simp [fastAllowed, and_assoc]

variable {fast decor : BitVec 1} {fixm1 : BitVec 4} {dsel esel : BitVec 8}

theorem exec_cfg_of_not_selectorLegal (h : ¬ (selectorLegal esel = true ∧ selectorLegal dsel = true)) (s : State) :
    exec (.cfg fast 0 fixm1 0 decor dsel esel) s = .next (s.reject .badSelector) := by
  have hcheck : (!selectorLegal esel || !selectorLegal dsel) = true := by simpa [imp_iff_not_or] using h
  simp [exec, execCfg, hcheck]

theorem exec_cfg_of_not_fastAllowed (hesel : selectorLegal esel = true) (hdsel : selectorLegal dsel = true)
    (h : ¬ (fast = 1 → fastAllowed fixm1 decor dsel esel = true)) (s : State) :
    exec (.cfg fast 0 fixm1 0 decor dsel esel) s = .next (s.reject .fastPrecond) := by
  obtain ⟨hfast, hallowed⟩ := Classical.not_imp.mp h
  simp [exec, execCfg, hesel, hdsel, hfast, hallowed]

theorem exec_cfg_of_legal (hesel : selectorLegal esel = true) (hdsel : selectorLegal dsel = true)
    (h : fast = 1 → fastAllowed fixm1 decor dsel esel = true) (s : State) :
    exec (.cfg fast 0 fixm1 0 decor dsel esel) s =
      .next ((s.writeCfg (cfgBody fast 0 fixm1 0 decor dsel esel)).respond []) := by
  have hcheck : ¬ (fast = 1 ∧ (!fastAllowed fixm1 decor dsel esel) = true) := by simpa using h
  simp only [exec, execCfg, hesel, hdsel, if_neg hcheck]
  rfl

theorem toNat_append_eq_add {v w : Nat} (x : BitVec v) (y : BitVec w) :
    (x ++ y).toNat = x.toNat * 2 ^ w + y.toNat := by
  rw [BitVec.toNat_append, ← Nat.shiftLeft_add_eq_or_of_lt y.isLt, Nat.shiftLeft_eq]

/-- A CFG command word without reserved bits, as the sum of its fields at their places (R74 format C). -/
theorem toNat_cfgWord (fast : BitVec 1) (fixm1 : BitVec 4) (decor : BitVec 1) (dsel esel : BitVec 8) :
    (2#4 ++ cfgBody fast 0 fixm1 0 decor dsel esel).toNat = 2 * 2 ^ 28 + fast.toNat * 2 ^ 27 + fixm1.toNat * 2 ^ 20 +
      decor.toNat * 2 ^ 16 + dsel.toNat * 2 ^ 8 + esel.toNat := by
  simp only [cfgBody, toNat_append_eq_add, BitVec.ofNat_eq_ofNat, BitVec.toNat_ofNat]
  omega

/-- The low 28 bits of a command word, the others 0, are its body: what CFG writes (R194). -/
theorem append_and_bodyBits (opc : BitVec 4) (low : BitVec 28) : (opc ++ low) &&& 0x0FFFFFFF#32 = low.setWidth 32 := by
  have hmask : 0x0FFFFFFF#32 = 0#4 ++ BitVec.allOnes 28 := by decide
  rw [hmask, BitVec.and_append, BitVec.and_allOnes, BitVec.and_zero]
  exact (BitVec.setWidth_eq_append (by decide)).symm

end Sys2Proof.Machine

open Sys2Proof Sys2Proof.Machine Sys2Proof.Claims

/-- Settles O23. Each clause is one branch of CFG's checks, its selector codes as R80 writes them and FAST's
configuration as R33 does. -/
theorem cfgWritesWholeOrIsRejectedInOrder : Obligations.CfgWritesWholeOrIsRejectedInOrder := by
  intro s fast rsvHi fixm1 rsvLo decor dsel esel i
  simp only [← selectorLegal_iff, ← fastAllowed_iff]
  refine ⟨fun hrsv => ?_, ?_, ?_, ?_⟩
  · exact exec_of_not_wellFormed (i := i) (by simpa [i, Instr.wellFormed, imp_iff_not_or] using hrsv) s
  · rintro rfl rfl hsel
    rw [exec_cfg_of_not_selectorLegal hsel, reject_eq_rejectedWith]
    rfl
  · rintro rfl rfl hesel hdsel hfast
    rw [exec_cfg_of_not_fastAllowed hesel hdsel hfast, reject_eq_rejectedWith]
    rfl
  · rintro rfl rfl hesel hdsel hfast
    refine ⟨_, encode_eq i, toNat_cfgWord fast fixm1 decor dsel esel, ?_⟩
    rw [exec_cfg_of_legal hesel hdsel hfast, append_and_bodyBits]
    rfl

end

section
/-! O24. WCOEF writes one element of COEF, unless the pattern is not finite (R26, R196). -/

namespace Sys2Proof.Machine

open Claims (NotFinite)

/-- COEF after a WCOEF, element by element (R196). -/
theorem set_eq_ofFn (coef : Window 32) (idx : BitVec 4) (bits : Word) :
    coef.set idx.toNat bits idx.isLt = Vector.ofFn fun k => if k.val = idx.toNat then bits else coef[k] := by
  ext k hk : 1
  rw [Vector.getElem_set, Vector.getElem_ofFn]
  exact if_congr eq_comm rfl rfl

theorem exec_wcoef_of_notFinite {bits : Word} (h : NotFinite bits) (idx : BitVec 4) (s : State) :
    exec (.wcoef 0 idx bits) s = .next (s.reject .badCoef) := by
  have hfin : f32IsFinite bits = false := Bool.eq_false_iff.mpr fun hf => (f32IsFinite_iff bits).mp hf h
  simp [exec, execWcoef, hfin]

end Sys2Proof.Machine

open Sys2Proof Sys2Proof.Machine

/-- Settles O24. -/
theorem wcoefStoresAFinitePattern : Obligations.WcoefStoresAFinitePattern := by
  intro s idx bits
  refine ⟨rfl, fun hfin => ?_, fun hnot => ?_, fun rsv hrsv => ?_⟩
  · rw [exec_wcoef_of_finite hfin, State.writeCoef, set_eq_ofFn]
    rfl
  · rw [exec_wcoef_of_notFinite hnot, reject_eq_rejectedWith]
    rfl
  · exact exec_of_not_wellFormed (i := .wcoef rsv idx bits) (by simpa [Instr.wellFormed] using hrsv) s

end

section
/-! O25. The RDREG index map, read from the index to the element's word (R51, R54, R200, R229). -/

namespace Sys2Proof.Machine

variable {s : State} {ridx : BitVec 8}

/-- The indices of the sixteen elements of COEF, RWIN and EWIN, an element of EWIN in two halves (R200). -/
theorem ofIndex_elements : ∀ k : Fin 16,
    RegName.ofIndex (BitVec.ofNat 8 (0x10 + k)) = some (.coef k) ∧
    RegName.ofIndex (BitVec.ofNat 8 (0x20 + k)) = some (.rwin k) ∧
    RegName.ofIndex (BitVec.ofNat 8 (0x40 + 2 * k)) = some (.ewinLow k) ∧
    RegName.ofIndex (BitVec.ofNat 8 (0x41 + 2 * k)) = some (.ewinHigh k) := by decide

theorem ofIndex_eq_none (h : 0x03 ≤ ridx.toNat ∧ ridx.toNat ≤ 0x0F ∨ 0x30 ≤ ridx.toNat ∧ ridx.toNat ≤ 0x3F ∨
    0x60 ≤ ridx.toNat) : RegName.ofIndex ridx = none := by
  unfold RegName.ofIndex
  iterate 6 rw [if_neg (by omega)]

theorem exec_rdreg_of_readReg {r : RegName} {v : Word} (hr : RegName.ofIndex ridx = some r) (hv : s.readReg r = .ok v) :
    exec (.rdreg 0 ridx) s = .next (s.respond [v]) := by
  simp [exec, execRdreg, hr, hv]

theorem exec_rdreg_of_unmapped (hr : RegName.ofIndex ridx = none) (s : State) :
    exec (.rdreg 0 ridx) s = .next (s.reject .badIndex) := by
  simp [exec, execRdreg, hr]

theorem readReg_lfsr (h : s.lfsr ≠ 0) : s.readReg .lfsr = .ok s.lfsr := if_neg h

/-- A 17-bit element is answered sign-extended, as the number it holds (R54). -/
theorem readReg_rwin (h : s.RwinInRange) (k : Fin 16) :
    s.readReg (.rwin k) = .ok (BitVec.ofInt 32 s.rwin[k].toInt) := by
  rw [State.readReg, State.readRwinElement, if_neg (h k)]
  rfl

theorem readReg_ewinLow (s : State) (k : Fin 16) : s.readReg (.ewinLow k) = .ok (BitVec.ofNat 32 s.ewin[k].toNat) := rfl

/-- The high half of a 64-bit element, as a quotient (R54). -/
theorem readReg_ewinHigh (s : State) (k : Fin 16) :
    s.readReg (.ewinHigh k) = .ok (BitVec.ofNat 32 (s.ewin[k].toNat / 2 ^ 32)) := by
  rw [← Nat.shiftRight_eq_div_pow]
  rfl

end Sys2Proof.Machine

open Sys2Proof Sys2Proof.Machine

/-- Settles O25. Each clause is a row of the index map and the word that the row's element is read as. -/
theorem rdregReadsTheIndexMap : Obligations.RdregReadsTheIndexMap := by
  intro s hlfsr hrwin answers
  refine ⟨?cfg, ?status, ?lfsr, fun k => ?coef, fun k => ?rwin, fun k => ?ewinLow, fun k => ?ewinHigh,
    fun ridx h => ?unmapped, fun rsv ridx hrsv => ?reserved, fun _ => rfl⟩
  case cfg => exact exec_rdreg_of_readReg (r := .cfg) rfl rfl
  case status => exact exec_rdreg_of_readReg (r := .status) rfl rfl
  case lfsr => exact exec_rdreg_of_readReg rfl (readReg_lfsr hlfsr)
  case unmapped =>
    rw [exec_rdreg_of_unmapped (ofIndex_eq_none h), reject_eq_rejectedWith]
    rfl
  case reserved =>
    exact exec_of_not_wellFormed (i := .rdreg rsv ridx) (by simpa [Instr.wellFormed] using hrsv) s
  all_goals obtain ⟨hcoef, hrwinIndex, hlow, hhigh⟩ := ofIndex_elements k
  case coef => exact exec_rdreg_of_readReg hcoef rfl
  case rwin => exact exec_rdreg_of_readReg hrwinIndex (readReg_rwin hrwin k)
  case ewinLow => exact exec_rdreg_of_readReg hlow (readReg_ewinLow s k)
  case ewinHigh => exact exec_rdreg_of_readReg hhigh (readReg_ewinHigh s k)

end

section
/-! O21, O22, O26. The commands of format Z that check nothing but their reserved bits: NOP, INIT and CLRST (R190, R192,
R202). -/

namespace Sys2Proof.Machine

open Claims (zeros)

theorem zeroWindow_eq_zeros (w : Nat) : zeroWindow w = zeros w := by
  ext k hk : 1
  rw [zeroWindow_getElem, Claims.zeros_getElem]

theorem exec_nop (s : State) : exec (.nop 0) s = .next (s.respond []) := rfl

theorem exec_init (seed : Word) (s : State) : exec (.init 0 seed) s = .next ((s.startSession seed).respond []) := rfl

theorem exec_clrst (s : State) : exec (.clrst 0) s = .next (s.clearStatus.respond []) := rfl

/-- A seed of 0 is replaced by RESET_SEED, which is 1 (R7, R192). -/
theorem startSession_zero (s : State) : s.startSession 0 = s.startSession 1 := rfl

end Sys2Proof.Machine

open Sys2Proof Sys2Proof.Machine

/-- Settles O21. -/
theorem nopDoesNothing : Obligations.NopDoesNothing := by
  refine ⟨rfl, fun s => ⟨exec_nop s, fun rsv hrsv => ?_⟩⟩
  exact exec_of_not_wellFormed (i := .nop rsv) (by simpa [Instr.wellFormed] using hrsv) s

/-- Settles O22. The state of R192 is the model's start of a session, whose cleared windows are those of reset. -/
theorem initStartsASession : Obligations.InitStartsASession := by
  refine ⟨fun _ => rfl, fun s seed => ?started, fun s => ?zero, fun s => ?one, by decide,
    fun s rsv seed hrsv => ?reserved⟩
  case started =>
    rw [exec_init, State.startSession, zeroWindow_eq_zeros, zeroWindow_eq_zeros]
    rfl
  case zero => rw [exec_init, exec_init, startSession_zero]
  case one => exact ⟨_, exec_init 1 s, rfl, rfl, rfl⟩
  case reserved =>
    exact exec_of_not_wellFormed (i := .init rsv seed) (by simpa [Instr.wellFormed] using hrsv) s

/-- Settles O26. -/
theorem clrstClearsStatus : Obligations.ClrstClearsStatus := by
  refine ⟨rfl, fun s => ⟨exec_clrst s, fun rsv hrsv => ?_⟩⟩
  exact exec_of_not_wellFormed (i := .clrst rsv) (by simpa [Instr.wellFormed] using hrsv) s

end

section
/-! O6. A word with a reserved opcode begins no command and takes no operand words: the step rejects it alone (R71, R79,
R223). -/

namespace Sys2Proof

open Laws.EncodedLength (opcode_append)

theorem opc_lt_eight (i : Instr) : i.opc.toNat < 8 := by
  cases i <;> simp [Instr.opc]

/-- No word that begins a command has a reserved opcode (R79). -/
theorem opcode_lt_eight_of_encode_append {i : Instr} {cw : Word} {ws rest : List Word}
    (h : encode i ++ rest = cw :: ws) : (opcode cw).toNat < 8 := by
  rw [encode_eq, List.cons_append] at h
  obtain ⟨rfl, -⟩ := List.cons.inj h
  rw [opcode_append]
  exact opc_lt_eight i

theorem operandCount_of_reserved : ∀ opc : BitVec 4, 8 ≤ opc.toNat → operandCount opc = 0 := by decide

/-- The decoder finds a reserved opcode and leaves the words after it (R79). -/
theorem decode_of_reserved {cw : Word} (h : 8 ≤ (opcode cw).toNat) (ws : List Word) :
    decode (cw :: ws) = .illegalOpcode ws := by
  obtain ⟨i, rest, -, hwords⟩ | ⟨-, hill⟩ | ⟨hfew, -⟩ := decode_cons_cases cw ws
  · exact absurd (opcode_lt_eight_of_encode_append hwords) (Nat.not_lt.mpr h)
  · exact hill
  · rw [operandCount_of_reserved _ h] at hfew
    exact absurd hfew (Nat.not_lt_zero _)

namespace Machine

/-- A reserved opcode at the head of the leading words is taken alone, and the rest of the input stays. -/
theorem fetch_of_illegalOpcode {input : List PortEvent} {rest : List Word}
    (h : decode (leadingWords input) = .illegalOpcode rest) :
    fetch input = .illegalOpcode (rest.map .word ++ fromReset input) := by
  simp [fetch, h]

theorem fetch_of_reserved {cw : Word} (h : 8 ≤ (opcode cw).toNat) (later : List PortEvent) :
    fetch (.word cw :: later) = .illegalOpcode later := by
  have hlead : decode (leadingWords (.word cw :: later)) = .illegalOpcode (leadingWords later) :=
    decode_of_reserved h (leadingWords later)
  rw [fetch_of_illegalOpcode hlead, fromReset, leadingWords_append_fromReset]

end Machine

end Sys2Proof

open Sys2Proof Sys2Proof.Machine

/-- Settles O6. -/
theorem reservedOpcodeIsRejectedAlone : Obligations.ReservedOpcodeIsRejectedAlone := by
  intro s cw later hinput hopc
  have hfetch : fetch s.input = .illegalOpcode later := by
    rw [hinput, fetch_of_reserved (hopc.trans_eq (opcode_toNat cw).symm)]
  simp only [step, hfetch, reject_eq_rejectedWith]
  rfl

end

section
/-! SUPPORT. How a command ends, over all commands and all states: it is rejected by one of its own checks, it is accepted,
or it faults, and a fault only from a state that is not legal (R220, R222, R243). -/

namespace Sys2Proof.Machine

variable {s : State} {i : Instr}

/-- The ends of command `i` in state `s`. The decoder alone raises ILLEGAL_OPCODE (R223): no command's own check does. -/
inductive State.Ends (s : State) (i : Instr) : Host.Outcome State Fault Refusal → Prop
  /-- R221 -/
  | rejected (code : RejectCode) (hcode : code ≠ .illegalOpcode) : s.Ends i (.next (s.reject code))
  /-- R72 -/
  | accepted (u : State) (data : List Word) (ha : s.Accepts i u data) : s.Ends i (.next (u.respond data))
  /-- R220, R243 -/
  | fault (f : Fault) (h : ¬ s.Legal) : s.Ends i (.fault f)

/-- A check before a command's work: it rejects, or what is left ends the command. -/
theorem State.Ends.ite_reject {c : Prop} [Decidable c] {code : RejectCode} {o : Host.Outcome State Fault Refusal}
    (h : ¬ c → s.Ends i o) (hcode : code ≠ .illegalOpcode := by decide) :
    s.Ends i (if c then .next (s.reject code) else o) := by
  split
  · exact .rejected code hcode
  · exact h ‹_›

/-- Work ends a command if every success of it is an accepted command's and it succeeds from every legal state. -/
theorem State.Ends.outcomeOf {r : Except Fault State}
    (hok : ∀ t, r = .ok t → ∃ u data, s.Accepts i u data ∧ t = u.respond data)
    (hlegal : s.Legal → ∃ t, r = .ok t) : s.Ends i (outcomeOf r) := by
  cases r with
  | ok t =>
    obtain ⟨u, data, ha, rfl⟩ := hok t rfl
    exact .accepted u data ha
  | error f => exact .fault f fun hs => nomatch hlegal hs

/-- Work that begins with a quantization and succeeds goes on from that quantization's output and state (R161). -/
theorem exists_traces_of_bind_eq_ok {t : State} {b : Word} {k : BitVec 16 × State → Except Fault State}
    (h : (quantize b s >>= k) = .ok t) : ∃ q, s.Traces q ∧ k (s.output b q, s.quantized b q) = .ok t := by
  cases hq : quantize b s with
  | error f => rw [hq] at h; exact nomatch h
  | ok p =>
    obtain ⟨out, u⟩ := p
    obtain ⟨q, htraces, rfl, rfl⟩ := quantize_eq_ok.mp hq
    rw [hq] at h
    exact ⟨q, htraces, h⟩

/-- In a legal state every mapped index has a value (R22, R23, R200). -/
theorem exists_readReg_of_legal (h : s.Legal) (r : RegName) : ∃ v, s.readReg r = .ok v := by
  obtain ⟨hlfsr, hrwin, -⟩ := h
  cases r with
  | lfsr => exact ⟨_, readReg_lfsr hlfsr⟩
  | rwin k => exact ⟨_, readReg_rwin hrwin k⟩
  | _ => exact ⟨_, rfl⟩

theorem execQuant_ends (rsv : BitVec 28) (b : Word) (s : State) : s.Ends (.quant rsv b) (execQuant rsv b s) := by
  refine .ite_reject fun hrsv => .outcomeOf (fun t ht => ?_) fun hs => ?_
  · obtain rfl := not_not.mp hrsv
    obtain ⟨q, hq, ht⟩ := exists_traces_of_bind_eq_ok ht
    exact ⟨_, _, .quant b q hq, (Except.ok.inj ht).symm⟩
  · obtain ⟨q, hq⟩ := exists_traces_of_legal hs
    exact ⟨_, by rw [quantize_of_traces b hq]; rfl⟩

theorem execQuant4_ends (rsv : BitVec 28) (b0 b1 b2 b3 : Word) (s : State) :
    s.Ends (.quant4 rsv b0 b1 b2 b3) (execQuant4 rsv b0 b1 b2 b3 s) := by
  refine .ite_reject fun hrsv => .ite_reject fun hfast => ?_
  obtain rfl := not_not.mp hrsv
  have hfast : s.fast = true := by simpa using hfast
  refine .outcomeOf (fun t ht => ?_) fun hs => ?_
  · obtain ⟨q0, h0, ht⟩ := exists_traces_of_bind_eq_ok ht
    obtain ⟨q1, h1, ht⟩ := exists_traces_of_bind_eq_ok ht
    obtain ⟨q2, h2, ht⟩ := exists_traces_of_bind_eq_ok ht
    obtain ⟨q3, h3, ht⟩ := exists_traces_of_bind_eq_ok ht
    exact ⟨_, _, .quant4 b0 b1 b2 b3 ⟨q0, q1, q2, q3⟩ hfast ⟨h0, h1, h2, h3⟩, (Except.ok.inj ht).symm⟩
  · obtain ⟨l, hl⟩ := exists_lanes_of_legal b0 b1 b2 b3 hs
    have hnext := execQuant4_of_lanes l hfast hl
    simp only [execQuant4, hfast] at hnext
    exact ⟨_, outcomeOf_eq_next.mp hnext⟩

theorem execRdreg_ends (rsv : BitVec 20) (ridx : BitVec 8) (s : State) :
    s.Ends (.rdreg rsv ridx) (execRdreg rsv ridx s) := by
  refine .ite_reject fun hrsv => ?_
  obtain rfl := not_not.mp hrsv
  cases hr : RegName.ofIndex ridx with
  | none => exact .rejected .badIndex nofun
  | some r =>
    dsimp only
    cases hv : s.readReg r with
    | ok v => exact .accepted _ _ (.rdreg ridx r v hr hv)
    | error f =>
      refine .fault f fun hs => ?_
      obtain ⟨v, hok⟩ := exists_readReg_of_legal hs r
      exact nomatch hok.symm.trans hv

/-- Every command in every state has one of those ends: each check in its order, then the command's work (R224). -/
theorem exec_ends (i : Instr) (s : State) : s.Ends i (exec i s) := by
  cases i with
  | nop rsv =>
    refine .ite_reject fun hrsv => ?_
    obtain rfl := not_not.mp hrsv
    exact .accepted _ _ .nop
  | init rsv seed =>
    refine .ite_reject fun hrsv => ?_
    obtain rfl := not_not.mp hrsv
    exact .accepted _ _ (.init seed)
  | cfg fast rsvHi fixm1 rsvLo decor dsel esel =>
    refine .ite_reject fun hrsv => .ite_reject fun hsel => .ite_reject fun hfast => ?_
    obtain ⟨rfl, rfl⟩ : rsvHi = 0 ∧ rsvLo = 0 := by simpa using hrsv
    obtain ⟨hesel, hdsel⟩ : selectorLegal esel = true ∧ selectorLegal dsel = true := by simpa using hsel
    exact .accepted _ _ (.cfg fast fixm1 decor dsel esel hesel hdsel (by simpa using hfast))
  | wcoef rsv idx bits =>
    refine .ite_reject fun hrsv => .ite_reject fun hbits => ?_
    obtain rfl := not_not.mp hrsv
    exact .accepted _ _ (.wcoef idx bits (by simpa using hbits))
  | quant rsv b => exact execQuant_ends rsv b s
  | quant4 rsv b0 b1 b2 b3 => exact execQuant4_ends rsv b0 b1 b2 b3 s
  | rdreg rsv ridx => exact execRdreg_ends rsv ridx s
  | clrst rsv =>
    refine .ite_reject fun hrsv => ?_
    obtain rfl := not_not.mp hrsv
    exact .accepted _ _ .clrst

end Sys2Proof.Machine
end

section
/-! O14, O16. A legal state has no faulting command, and a command that answers REJ is the rejection itself (R220 to R222,
R243). -/

namespace Sys2Proof.Machine

variable {s : State}

theorem State.Ends.exists_next_of_legal {i : Instr} {o : Host.Outcome State Fault Refusal} (h : s.Ends i o)
    (hs : s.Legal) : ∃ t, o = .next t := by
  cases h with
  | rejected code _ => exact ⟨_, rfl⟩
  | accepted u data _ => exact ⟨_, rfl⟩
  | fault f hnot => exact absurd hs hnot

/-- The codes of R222 but for ILLEGAL_OPCODE. -/
theorem RejectCode.code_mem_of_ne_illegalOpcode {code : RejectCode} (h : code ≠ .illegalOpcode) :
    2 ≤ code.code.toNat ∧ code.code.toNat ≤ 7 := by
  cases code with
  | illegalOpcode => exact absurd rfl h
  | _ => decide

/-- An accepted command answers OK (R72). -/
theorem responses_ne_rej_of_accepts {i : Instr} {u : State} {data : List Word} (ha : s.Accepts i u data) :
    (u.respond data).responses ≠ s.responses ++ [.rej] := by
  rw [State.respond_responses, responses_of_accepts ha]
  simp

end Sys2Proof.Machine

open Sys2Proof.Machine

/-- Settles O14. A step is a command, the rejection of a reserved opcode, a reset or a wait, and of these only a command can
fault, which it does not from a legal state. -/
theorem legalStateStepsOn : Obligations.LegalStateStepsOn := by
  intro s hs
  obtain ⟨i, rest, -, he⟩ | ⟨rest, -, he⟩ | ⟨rest, -, he⟩ | ⟨-, he⟩ := step_cases (rfl : step s = step s)
  · rw [he]
    exact (exec_ends i (s.withInput rest)).exists_next_of_legal hs
  · exact ⟨_, he⟩
  · exact ⟨_, he⟩
  · exact ⟨_, he⟩

/-- Settles O16. A command that answers REJ was not accepted, so one of its checks rejected it. -/
theorem rejectionIsPrecise : Obligations.RejectionIsPrecise := by
  intro i s t he hrej
  have hends := exec_ends i s
  rw [he] at hends
  cases hends with
  | rejected code hcode =>
    obtain ⟨hlo, hhi⟩ := code.code_mem_of_ne_illegalOpcode hcode
    exact ⟨code.code.toNat, hlo, hhi, reject_eq_rejectedWith code s⟩
  | accepted u data ha => exact absurd hrej (responses_ne_rej_of_accepts ha)

end

section
/-! O9. A reset that stands before the next command is whole is what the core takes from its port (R250, R251). -/

namespace Sys2Proof.Machine

/-- When the words before the first reset are no whole command, the core takes the reset, and those words are lost (R250). -/
theorem fetch_of_incomplete_reset {ws : List Word} (h : decode ws = .incomplete) (later : List PortEvent) :
    fetch (ws.map .word ++ .reset :: later) = .reset later := by
  have hlead : decode (leadingWords (ws.map .word ++ .reset :: later)) = .incomplete := by
    rw [leadingWords_words, leadingWords, List.append_nil, h]
  simp only [fetch, hlead, fromReset_words, fromReset]

end Sys2Proof.Machine

namespace Sys2Proof.Claims

/-- The coefficients of R149 are those at reset (R26). -/
theorem unitCoef_eq_resetCoef : unitCoef = Config.resetCoef := by decide

end Sys2Proof.Claims

open Sys2Proof.Machine Sys2Proof.Claims

/-- Settles O9. The reset is what the step fetches, and the state after it is the host's reset, element by element. -/
theorem resetSetsEveryElement : Obligations.ResetSetsEveryElement := by
  intro s ws later hinput hdecode
  have hfetch : fetch s.input = .reset later := by
    rw [hinput]
    exact fetch_of_incomplete_reset hdecode later
  have hstep : step s = .next (s.hostReset later) := by
    simp only [step, hfetch]
  rw [hstep, ← zeroWindow_eq_zeros, ← zeroWindow_eq_zeros, unitCoef_eq_resetCoef]
  rfl

end

section
/-! O10. Words that are no whole command, with no reset after them, are left in the port (R71, R262, log entry 3). -/

namespace Sys2Proof.Machine

/-- Where the words delivered are all of the input and no whole command, the core takes nothing. -/
theorem fetch_of_incomplete_words {ws : List Word} (h : decode ws = .incomplete) :
    fetch (ws.map .word) = .waiting := by
  have hlead : leadingWords (ws.map .word) = ws := by
    simpa [leadingWords] using leadingWords_words ws []
  have hlater : fromReset (ws.map .word) = [] := by
    simpa [fromReset] using fromReset_words ws []
  simp only [fetch, hlead, h, hlater]

end Sys2Proof.Machine

open Sys2Proof.Machine

/-- Settles O10. -/
theorem incompleteCommandWaits : Obligations.IncompleteCommandWaits := by
  intro s ws hinput hdecode
  have hfetch : fetch s.input = .waiting := by
    rw [hinput]
    exact fetch_of_incomplete_words hdecode
  simp only [step, hfetch]

end

section
/-! O33. The reads that fault: LFSR at 0, and an element of RWIN at -65536 (`93_implementation_defined.md` X10, X11, log
entry 7). -/

namespace Sys2Proof.Machine

variable {s : State}

/-- A sample draws from LFSR, so with LFSR = 0 it ends neither in a response nor in a refusal: a filter before the draw
faults, or the draw does. -/
theorem exec_quant_of_lfsr_zero (b : Word) (h : s.lfsr = 0) : ∃ f, exec (.quant 0 b) s = .fault f := by
  cases he : exec (.quant 0 b) s with
  | next t =>
    obtain ⟨hrsv, -⟩ | ⟨-, q, ⟨-, hlfsr, -⟩, -⟩ := execQuant_cases he
    · exact absurd rfl hrsv
    · exact absurd h hlfsr
  | fault f => exact ⟨f, rfl⟩
  | refused r => exact absurd he (exec_ne_refused _ _ _)

theorem exec_rdreg_of_readReg_fault {ridx : BitVec 8} {r : RegName} {f : Fault} (hr : RegName.ofIndex ridx = some r)
    (hf : s.readReg r = .error f) : exec (.rdreg 0 ridx) s = .fault f := by
  simp [exec, execRdreg, hr, hf]

theorem readReg_lfsr_of_zero (h : s.lfsr = 0) : s.readReg .lfsr = .error .lfsrZero := if_pos h

/-- The number -65536 has the one pattern that no fill writes (R23). -/
theorem eq_rwinNever_of_toInt {x : BitVec 17} (h : x.toInt = -65536) : x = rwinNever :=
  BitVec.eq_of_toInt_eq h

theorem readReg_rwin_of_never {k : Fin 16} (h : s.rwin[k] = rwinNever) :
    s.readReg (.rwin k) = .error .rwinOutOfRange := by
  rw [State.readReg, State.readRwinElement, if_pos h]
  rfl

end Sys2Proof.Machine

open Sys2Proof.Machine

/-- Settles O33. -/
theorem unreachableValuesFault : Obligations.UnreachableValuesFault := by
  refine ⟨fun s b hlfsr => ?sample, fun s hlfsr => ?lfsr, fun s k hrwin => ?rwin⟩
  case sample => exact exec_quant_of_lfsr_zero b hlfsr
  case lfsr => exact exec_rdreg_of_readReg_fault rfl (readReg_lfsr_of_zero hlfsr)
  case rwin =>
    obtain ⟨-, hindex, -, -⟩ := ofIndex_elements k
    exact exec_rdreg_of_readReg_fault hindex (readReg_rwin_of_never (eq_rwinNever_of_toInt hrwin))

end
